-- ==== Sys2Proof/Word.lean ====
section
/-! DEFINITION. A word and its two readings at a width `W` (R5, R10), `wrap_W`, and the instruction word as the pair of words the
Instruction Memory holds (R17, R27, R42). -/

namespace Sys2Proof

/-! A word is held as the integer `s(v)` it reads as: R5 makes the Accumulator, every Data Memory word, the opcode, the operand,
the exit status and every value that crosses the I/O boundary "`W`-bit two's complement signed integers", and no instruction
names a bit of one. So `W` stays a parameter: it enters where a result is narrowed (`Word.wrap`), where a value comes in from
outside (`Word.fits`) and where a word is laid out in bits (`InstrWord.toBits` of Decode.lean) (assumption 1). -/

/-- `2^(W-1)`. -/
def Word.half (width : Nat) : Nat := 2 ^ (width - 1)

/-- `2^W`. -/
def Word.modulus (width : Nat) : Nat := 2 ^ width

/-- `MIN = -2^(W-1)` (R10). -/
def Word.minSigned (width : Nat) : Int := -(Word.half width)

/-- `MAX = 2^(W-1) - 1` (R10). -/
def Word.maxSigned (width : Nat) : Int := Word.half width - 1

/-- `MIN <= z <= MAX`: `z` is the signed reading of a `W`-bit word (R10). -/
def Word.fits (width : Nat) (z : Int) : Bool :=
  decide (Word.minSigned width ≤ z) && decide (z ≤ Word.maxSigned width)

/-- `s(wrap_W(z))`: the signed reading of the word equal to `z` modulo `2^W` (R10). -/
def Word.wrap (width : Nat) (z : Int) : Int := Int.bmod z (Word.modulus width)

/-- `u(v)` of the word whose signed reading is `z`: the number in `0 .. 2^W - 1` equal to `z` modulo `2^W` (R10). -/
def Word.unsigned (width : Nat) (z : Int) : Nat := (z % (Word.modulus width : Int)).toNat

/-- One instruction word: "a pair {opcode: enum, operand: integer}" (R17, R41). A model stores each instruction as a
pair (R27); the `2W`-bit layout of R42 is `InstrWord.toBits` of Decode.lean. -/
structure InstrWord where
  opcode : Int
  operand : Int
  deriving DecidableEq, Repr

/-- The word (opcode 0, operand 0): the reset content of every Instruction Memory slot (R17, R25). -/
def InstrWord.zero : InstrWord := ⟨0, 0⟩

/-- Both fields are `W`-bit words (R42). -/
def InstrWord.fits (width : Nat) (w : InstrWord) : Bool := Word.fits width w.opcode && Word.fits width w.operand

end Sys2Proof
end

