-- ==== Sys2Proof/Config.lean ====
section
/-! DEFINITION. What is fixed when the hardware is configured: the word width `W` and the two capacities `N` and `M` (R5, R6, R7).
The mode input `STRICT` is an input of the block (R8) and stands in the state's environment. -/

namespace Sys2Proof

/-- The elaboration parameters `W`, `N` and `M`. They are carried beside the state and never change, so that a statement
about every state is a statement about every configuration (assumption 2). -/
structure Params where
  /-- `W`, the word width in bits (R5). -/
  width : Nat
  /-- `N`, the Data Memory capacity in words (R6). -/
  dataCapacity : Nat
  /-- `M`, the Instruction Memory capacity in instruction words (R7). -/
  programCapacity : Nat
  deriving DecidableEq, Repr

/-- The default configuration `W = 32`, `N = 10`, `M = 30` (R5, R6, R7). -/
def Params.default : Params := ⟨32, 10, 30⟩

/-- The default of `STRICT`: lenient mode (R8). -/
def Config.strictDefault : Bool := false

end Sys2Proof
end

