-- ==== Sys2Proof/Syntax.lean ====
section
/-! DEFINITION. The instruction set: one constructor per row of the opcode map (R45). -/

namespace Sys2Proof

/-- An instruction with its operand `a = s(operand)`, used whole (R44): "a Data Memory address (LOAD/ADD/STORE/SUB), an
Instruction Memory address (JMP), a status code (END), or unused (IN/OUT/SKIPZ — operand ignored but still stored)". It is an
instruction of a block of width `W` when the operand is a `W`-bit word (`Instr.wellFormed` of WellFormed.lean). -/
inductive Instr where
  /-- LOAD, opcode 1 (R68). -/
  | load (a : Int)
  /-- ADD, opcode 2 (R69). -/
  | add (a : Int)
  /-- STORE, opcode 3 (R70). -/
  | store (a : Int)
  /-- SUB, opcode 4 (R71). -/
  | sub (a : Int)
  /-- IN, opcode 5 (R73). -/
  | inp (a : Int)
  /-- OUT, opcode 6 (R74). -/
  | out (a : Int)
  /-- END, opcode 7 (R75). -/
  | endRun (a : Int)
  /-- JMP, opcode 8 (R76). -/
  | jmp (a : Int)
  /-- SKIPZ, opcode 9 (R77). -/
  | skipz (a : Int)
  /-- The "N/A" sentinel, opcode 0: illegal and nothing more (R80). -/
  | na (a : Int)
  /-- The reserved opcode 10: illegal and nothing more (R80). -/
  | reserved10 (a : Int)
  deriving DecidableEq, Repr

/-- The operand of an instruction, whole (R44). -/
def Instr.operand : Instr → Int
  | .load a => a
  | .add a => a
  | .store a => a
  | .sub a => a
  | .inp a => a
  | .out a => a
  | .endRun a => a
  | .jmp a => a
  | .skipz a => a
  | .na a => a
  | .reserved10 a => a

end Sys2Proof
end

