-- ==== Sys2Proof/WellFormed.lean ====
section
/-! DEFINITION. The checks the spec puts on what comes from outside: the parameters (R5, R9), an instruction's operand (R42), the
loader's integer pairs (R48, decision D29) and a program as the host must offer it (R99, U11). -/

namespace Sys2Proof

/-- `W >= 8` (R5), `1 <= N <= 2^(W-1) - 1` and `1 <= M <= 2^(W-1) - 1` (R9). -/
def Params.wellFormed (p : Params) : Bool :=
  decide (8 ≤ p.width) &&
  decide (1 ≤ p.dataCapacity) && decide (p.dataCapacity ≤ Word.maxSigned p.width) &&
  decide (1 ≤ p.programCapacity) && decide (p.programCapacity ≤ Word.maxSigned p.width)

/-- The operand is a `W`-bit word (R42). Nothing else is asked: "an ignored operand never makes a legal instruction illegal"
(R46). -/
def Instr.wellFormed (width : Nat) (i : Instr) : Bool := Word.fits width i.operand

/-- A loader pair `(op, a)`: both integers fit a word; the opcode need not be legal (R39, R48). -/
def pairWellFormed (width : Nat) (p : Int × Int) : Bool :=
  Word.fits width p.1 && Word.fits width p.2

/-- A program as the host must offer it: at least one pair, at most `M` pairs, each of them fitting (R99, U11). -/
def programWellFormed (p : Params) (prog : List (Int × Int)) : Bool :=
  decide (prog ≠ []) && decide (prog.length ≤ p.programCapacity) && prog.all (pairWellFormed p.width)

end Sys2Proof
end

