-- ==== Sys2Proof/Decode.lean ====
section
/-! DEFINITION. The one instruction format (R41, R42), the opcode map (R43, R45, R46), the encoder, the loader's pairs
(R48) and the host's reading of the opcode table's words. -/

namespace Sys2Proof

/-- `{opcode, operand}`: the opcode in bits `2W-1 : W`, the operand in bits `W-1 : 0`, each in two's complement (R42). -/
def InstrWord.toBits (width : Nat) (w : InstrWord) : BitVec (width + width) :=
  BitVec.ofInt width w.opcode ++ BitVec.ofInt width w.operand

/-- The two fields of a `2W`-bit instruction word, each read as signed (R42). -/
def InstrWord.ofBits (width : Nat) (b : BitVec (width + width)) : InstrWord :=
  ⟨(b.extractLsb' width width).toInt, (b.extractLsb' 0 width).toInt⟩

/-- "Any opcode outside {1..9} is illegal": the opcode field read as a signed integer lies in 1 to 9 (R43, R46). -/
def InstrWord.legal (w : InstrWord) : Bool := decide (1 ≤ w.opcode) && decide (w.opcode ≤ 9)

/-- What the decoder answers: an instruction of the opcode map, or a rejection by name. -/
inductive Decoded where
  /-- A word of the opcode map (R45). -/
  | instr (i : Instr)
  /-- Rejected: the opcode is none of the map's eleven listed values. The engine handles it by R78 and R79. -/
  | illegalOpcode (w : InstrWord)
  deriving DecidableEq, Repr

/-- The opcode value of an instruction (R45). -/
def Instr.opcode : Instr → Int
  | .load _ => 1
  | .add _ => 2
  | .store _ => 3
  | .sub _ => 4
  | .inp _ => 5
  | .out _ => 6
  | .endRun _ => 7
  | .jmp _ => 8
  | .skipz _ => 9
  | .na _ => 0
  | .reserved10 _ => 10

/-- The opcode map as a function: dispatch compares the integer value of the whole opcode field with each value of
the map (R43, R45). -/
def decode (w : InstrWord) : Decoded :=
  if w.opcode = 1 then .instr (.load w.operand)
  else if w.opcode = 2 then .instr (.add w.operand)
  else if w.opcode = 3 then .instr (.store w.operand)
  else if w.opcode = 4 then .instr (.sub w.operand)
  else if w.opcode = 5 then .instr (.inp w.operand)
  else if w.opcode = 6 then .instr (.out w.operand)
  else if w.opcode = 7 then .instr (.endRun w.operand)
  else if w.opcode = 8 then .instr (.jmp w.operand)
  else if w.opcode = 9 then .instr (.skipz w.operand)
  else if w.opcode = 0 then .instr (.na w.operand)
  else if w.opcode = 10 then .instr (.reserved10 w.operand)
  else .illegalOpcode w

/-- Decoding of the `2W`-bit word, total on every bit pattern (R42). -/
def decodeBits (width : Nat) (b : BitVec (width + width)) : Decoded := decode (InstrWord.ofBits width b)

/-- The instruction word of an instruction, written from the opcode map (R42, R45). -/
def encode (i : Instr) : InstrWord := ⟨i.opcode, i.operand⟩

/-- The `2W` bits of an instruction (R42). -/
def encodeBits (width : Nat) (i : Instr) : BitVec (width + width) := (encode i).toBits width

/-- A loader pair becomes the word `{wrap_W(op), wrap_W(a)}` when both integers fit, and cannot be offered otherwise
(R39, R48). -/
def encodePair (width : Nat) (p : Int × Int) : Option InstrWord :=
  if pairWellFormed width p then some ⟨Word.wrap width p.1, Word.wrap width p.2⟩ else none

/-- The instruction word, at width `W`, whose bits are `w`, numbered as the opcode table numbers them (bit 0 the least
significant, the opcode in the upper `W` bits); bits from `nbits` up are 0. -/
def tableWord (width nbits w : Nat) : InstrWord := InstrWord.ofBits width (BitVec.ofNat (width + width) (w % 2 ^ nbits))

/-- Which instruction has the bits `w` of the opcode table's numbering, at width `W`. The instruction word is one slot of `2W`
bits (R41), so a longer `nbits` is no instruction. -/
def decodeTableWordAt (width nbits w : Nat) : Option Instr :=
  if nbits ≤ width + width then
    match decode (tableWord width nbits w) with
    | .instr i => some i
    | .illegalOpcode _ => none
  else none

/-- The host's question to the decoder. The opcode table is written for the default width, 64-bit words (R42, R45). -/
def decodeTableWord (nbits w : Nat) : Option Instr := decodeTableWordAt Params.default.width nbits w

end Sys2Proof
end

