-- ==== Sys2Proof/Machine/State.lean ====
section
/-! DEFINITION. The state of the block (R11), what stands beside it (R24: parameters, inputs, emitted events), the reset
state (R25), and the reasons a step of the model can stop. -/

namespace Sys2Proof.Machine

/-- The run state register `STATE` (R14); its 3-bit codes are `RunState.code` of Ports.lean. -/
inductive RunState where
  /-- Reset done; the program may be loaded; no cycle runs. -/
  | idle
  /-- The engine executes one cycle after another. -/
  | running
  /-- An END instruction executed. -/
  | halted
  /-- A fault aborted the run. -/
  | faulted
  /-- The host's stop request ended the run. -/
  | stopped
  deriving DecidableEq, Repr

/-- `FAULT_KIND` (R20, R81): what the hardware records when it aborts a run. Taking one of these is a NEXT state of the
model (R88), never an `Outcome.fault`. Its 3-bit codes are `FaultKind.code` of Ports.lean. -/
inductive FaultKind where
  /-- No fault has happened. -/
  | none
  /-- The start command found no loaded instruction (R82). -/
  | malformedProgram
  /-- An opcode outside 1 to 9 in strict mode (R83). -/
  | illegalOpcode
  /-- A data address, a jump target or a fetch address out of range (R84). -/
  | outOfBounds
  /-- The I/O boundary could not supply or accept a value (R85). -/
  | ioFailure
  deriving DecidableEq, Repr

/-- An answer of the input channel to a `readInteger()` (R72). "Not yet" is an empty list of answers. -/
inductive InAnswer where
  /-- `Value(v)`. -/
  | value (v : Int)
  /-- `Fail`. -/
  | fail
  deriving DecidableEq, Repr

/-- An answer of the output channel to a `writeInteger(v)` (R72). -/
inductive OutAnswer where
  /-- `Accepted`. -/
  | accepted
  /-- `Fail`. -/
  | fail
  deriving DecidableEq, Repr

/-- An event of the run (R64). -/
inductive Event where
  /-- `Output(v)`: OUT handed `v` to the I/O boundary (R74). -/
  | output (v : Int)
  /-- `Report(pc, opcode, operand)`: an illegal word was skipped in lenient mode (R78). -/
  | report (pc : Nat) (opcode operand : Int)
  deriving DecidableEq, Repr

/-- What the host does next (R104). One step of the model takes one of these. -/
inductive HostAction where
  /-- `rst` (R97). -/
  | reset
  /-- `strict_mode` is set to `b` (R8, R101). -/
  | setStrict (b : Bool)
  /-- One pair is offered on the load port (R39). -/
  | load (op a : Int)
  /-- The start command (R53). -/
  | start
  /-- The host lets the engine run one cycle; `stop` is what phase 0 of that cycle samples on `stop_req` (R55). -/
  | cycle (stop : Bool)
  deriving DecidableEq, Repr

/-- The state. The first group is exactly the closed list of R11, one field a row. The second group is what R24 says is
no state of the hardware but an input or an output of its step: the parameters, the mode input, the host's coming actions
and channel answers as plain data, and the events emitted so far (assumptions 2, 4, 5, 8, 14). A signed word is held as the
integer it reads as and an unsigned one as a natural number; that every one of them is a `W`-bit word is part of the
invariant every step keeps (`Safety.Sized`, assumption 1). -/
structure State where
  /-- `ACC`, the Accumulator (R12). -/
  acc : Int
  /-- `PC`, the Program Counter (R13). -/
  pc : Nat
  /-- `STATE` (R14). -/
  runState : RunState
  /-- `IR.opcode` and `IR.operand`, the transient fetch registers (R15). -/
  ir : InstrWord
  /-- `DMEM`, Data Memory (R16): the words that are not 0, by rising index. -/
  dmem : List (Nat × Int)
  /-- `IMEM`, Instruction Memory (R17): the words that are not (0, 0), by rising index. -/
  imem : List (Nat × InstrWord)
  /-- `LOAD_PTR` (R18). -/
  loadPtr : Nat
  /-- `EXIT_STATUS` (R19). -/
  exitStatus : Int
  /-- `FAULT_KIND` (R20). -/
  faultKind : FaultKind
  /-- `FAULT_PC` (R20). -/
  faultPc : Nat
  /-- `FAULT_INSTR` (R20). -/
  faultInstr : InstrWord
  /-- `FAULT_INSTR_VALID` (R20). -/
  faultInstrValid : Bool
  /-- `W`, `N` and `M` (R5, R6, R7). -/
  params : Params
  /-- `STRICT`, the level of the input `strict_mode` (R8). -/
  strict : Bool
  /-- What the host does next, first action first; a quiet host when empty (assumption 4). -/
  host : List HostAction
  /-- The answers the input channel will give, first answer first; not yet answered when empty (R72). -/
  inAnswers : List InAnswer
  /-- The answers the output channel will give, first answer first; `Accepted` when empty (assumption 5). -/
  outAnswers : List OutAnswer
  /-- The events emitted so far, oldest first (R24e, R67). -/
  trace : List Event
  deriving DecidableEq, Repr

/-- Why a step of the model has no successor although nothing is wrong: the hardware's own faults are next states. -/
inductive Fault where
  /-- STUCK, not a fault of the machine. Raised by IN (`execIn`) when the input channel has not answered: "A model gives
  the IN step no successor until the input channel answers" (R73, U13). Safe: the state is kept, and the step is enabled
  again in the same state with an answer in `inAnswers`. -/
  | awaitingInput
  deriving DecidableEq, Repr

/-- What the model gives no meaning. -/
inductive Refusal where
  /-- An instruction that has no meaning yet; raised by `exec`'s arms only. Safe. No arm raises it. -/
  | notModelled (mnemonic : String)
  /-- `W` outside R5, or `N` or `M` outside R9, raised by every step: "excluded configurations", `refuse` (U10). Safe. -/
  | parametersOutOfRange
  /-- `strict_mode` changed while `STATE = Running`, raised by the host action `setStrict`: "what a change in mid-run does
  is not defined by this spec" (R101, U8). Safe. -/
  | strictChangedWhileRunning
  /-- An integer that is no `W`-bit word stands next on the load port or on the input channel, raised by the host action `load` and
  by IN: "A value that does not fit `W` bits cannot be offered" (R39), "cannot cross the boundary" (R72). Safe: no hardware
  run has such a value (assumption 18). -/
  | valueDoesNotFit
  deriving DecidableEq, Repr

/-- The state after reset (R25), with the default parameters, lenient mode, a quiet host, nothing yet on the input
channel, and no event emitted. -/
def State.reset : State where
  acc := 0
  pc := 0
  runState := .idle
  ir := InstrWord.zero
  dmem := []
  imem := []
  loadPtr := 0
  exitStatus := 0
  faultKind := .none
  faultPc := 0
  faultInstr := InstrWord.zero
  faultInstrValid := false
  params := Params.default
  strict := Config.strictDefault
  host := []
  inAnswers := []
  outAnswers := []
  trace := []

end Sys2Proof.Machine
end

