-- ==== Sys2Proof/Machine/Ops.lean ====
section
/-! DEFINITION. The named operations over the state: a memory bank's read and write (R27, R29), the fetch's latch and
advance (R56, R57), the abort (R88), the I/O boundary (R72), the emission of an event, and reset (R97). -/

namespace Sys2Proof.Machine

/-- The word at index `a` of a memory bank; an index that is not listed reads `zero`, the reset content (R16, R17). -/
def Memory.read {α : Type} (zero : α) (m : List (Nat × α)) (a : Nat) : α :=
  match m with
  | [] => zero
  | c :: rest => if c.1 = a then c.2 else Memory.read zero rest a

/-- A bank without the entry for index `a`. -/
def Memory.erase {α : Type} (m : List (Nat × α)) (a : Nat) : List (Nat × α) :=
  match m with
  | [] => []
  | c :: rest => if c.1 = a then Memory.erase rest a else c :: Memory.erase rest a

/-- A bank with the entry `(a, v)` put in before the first larger index. -/
def Memory.insert {α : Type} (m : List (Nat × α)) (a : Nat) (v : α) : List (Nat × α) :=
  match m with
  | [] => [(a, v)]
  | c :: rest => if a < c.1 then (a, v) :: c :: rest else c :: Memory.insert rest a v

/-- Writing `v` to index `a` (R29): the entry is replaced, and a word equal to the reset content is not listed, so that
equal banks are equal lists. -/
def Memory.write {α : Type} [DecidableEq α] (zero : α) (m : List (Nat × α)) (a : Nat) (v : α) : List (Nat × α) :=
  if v = zero then Memory.erase m a else Memory.insert (Memory.erase m a) a v

/-- The canonical form of a bank of `cap` words: indexes below `cap` and strictly rising, no word equal to the reset
content. -/
def Memory.wf {α : Type} [DecidableEq α] (zero : α) (cap : Nat) (m : List (Nat × α)) : Bool :=
  match m with
  | [] => true
  | c :: rest => decide (c.1 < cap) && decide (c.2 ≠ zero) && rest.all (fun d => decide (c.1 < d.1)) && Memory.wf zero cap rest

/-- The word `DMEM[a]` (R16). -/
def State.dmemAt (s : State) (a : Nat) : Int := Memory.read 0 s.dmem a

/-- The instruction word `IMEM[a]` (R17). -/
def State.imemAt (s : State) (a : Nat) : InstrWord := Memory.read InstrWord.zero s.imem a

/-- `ACC <- v`. -/
def State.setAcc (s : State) (v : Int) : State := { s with acc := v }

/-- `PC <- target`. -/
def State.setPc (s : State) (target : Nat) : State := { s with pc := target }

/-- `DMEM[a] <- v`, the index already checked (R30). -/
def State.setDmem (s : State) (a : Nat) (v : Int) : State := { s with dmem := Memory.write 0 s.dmem a v }

/-- `IMEM[a] <- w`, by the load port (R39). -/
def State.setImem (s : State) (a : Nat) (w : InstrWord) : State :=
  { s with imem := Memory.write InstrWord.zero s.imem a w }

/-- Phases 1 and 2 of a cycle whose fetch returned `w`: `IR <- w` and `PC <- PC + 1` (R56, R57). `PC + 1` never wraps (R13). -/
def State.advance (s : State) (w : InstrWord) : State := { s with ir := w, pc := s.pc + 1 }

/-- An event joins the trace (R24e). -/
def State.emit (s : State) (e : Event) : State := { s with trace := s.trace ++ [e] }

/-- END's effect on the run: `EXIT_STATUS <- a`, `STATE <- Halted` (R75). -/
def State.halt (s : State) (a : Int) : State := { s with exitStatus := a, runState := .halted }

/-- `STATE <- r`. -/
def State.setRunState (s : State) (r : RunState) : State := { s with runState := r }

/-- `LOAD_PTR <- p`. -/
def State.setLoadPtr (s : State) (p : Nat) : State := { s with loadPtr := p }

/-- The level of `strict_mode` becomes `b`. -/
def State.setStrict (s : State) (b : Bool) : State := { s with strict := b }

/-- The host's present action is taken off its list. -/
def State.takeAction (s : State) : State := { s with host := s.host.tail }

/-- Where a fault is raised (R88). -/
inductive FaultSource where
  /-- By the start command. -/
  | start
  /-- By the fetch, phase 1. -/
  | fetch
  /-- In phase 4, by the instruction at `fpc`, which `IR` holds. -/
  | execute (fpc : Nat)
  deriving DecidableEq, Repr

/-- Raising a fault: "exactly this and nothing else" (R88). There are no handlers and there is no return (R90): the one
way out of the state this leaves is `State.resetCore`. -/
def State.raise (s : State) (kind : FaultKind) (source : FaultSource) : State :=
  match source with
  | .start => { s with faultKind := kind, faultPc := 0, faultInstrValid := false, runState := .faulted }
  | .fetch => { s with faultKind := kind, faultPc := s.pc, faultInstrValid := false, runState := .faulted }
  | .execute fpc =>
    { s with faultKind := kind, faultPc := fpc, faultInstr := s.ir, faultInstrValid := true, runState := .faulted }

/-- A fault in phase 4 of the cycle that fetched `w` at `s.pc`: what phases 1 and 2 did stands, the instruction has none
of its effects, and the abort is recorded with `fpc = s.pc` (R65, R88). -/
def State.abort (s : State) (kind : FaultKind) (w : InstrWord) : State :=
  (s.advance w).raise kind (.execute s.pc)

/-- What `readInteger()` does (R72): each value is consumed exactly once and in order; a failure consumes no value. -/
inductive ReadResult where
  /-- `Value(v)`, with the answers that remain. -/
  | value (v : Int) (rest : List InAnswer)
  /-- `Fail`, with the answers that remain. -/
  | fail (rest : List InAnswer)
  /-- The boundary has not answered. -/
  | notYet
  /-- The listed value is no `W`-bit word: no boundary can supply it. -/
  | misfit
  deriving DecidableEq, Repr

/-- `readInteger()` (R72): "either `Value(v)` with `v` a `W`-bit signed integer, or `Fail`", or no answer yet. -/
def State.readInteger (s : State) : ReadResult :=
  match s.inAnswers with
  | [] => .notYet
  | .value v :: rest => if Word.fits s.params.width v then .value v rest else .misfit
  | .fail :: rest => .fail rest

/-- The answers of the input channel that remain. -/
def State.setInAnswers (s : State) (rest : List InAnswer) : State := { s with inAnswers := rest }

/-- The answer `writeInteger` gives next (R72): it never makes the core wait; an output channel the host has said nothing
of accepts (assumption 5). -/
def State.nextOutAnswer (s : State) : OutAnswer :=
  match s.outAnswers with
  | [] => .accepted
  | r :: _ => r

/-- The answers of the output channel that remain. -/
def State.setOutAnswers (s : State) (rest : List OutAnswer) : State := { s with outAnswers := rest }

/-- The output channel has given one answer. -/
def State.dropOutAnswer (s : State) : State := s.setOutAnswers s.outAnswers.tail

/-- `reset()` (R97): every register and both memories at the value of R25, from any state. The parameters, the mode input,
the host's further actions, the channels' answers not yet given ("any input value not yet consumed stays with the
boundary", R98) and the events already emitted are not state of the block and stand. -/
def State.resetCore (s : State) : State :=
  { s with
    acc := 0, pc := 0, runState := .idle, ir := InstrWord.zero, dmem := [], imem := [], loadPtr := 0, exitStatus := 0,
    faultKind := .none, faultPc := 0, faultInstr := InstrWord.zero, faultInstrValid := false }

end Sys2Proof.Machine
end

