-- ==== Sys2Proof/Machine/Operands.lean ====
section
/-! DEFINITION. Every way the spec reads an operand (R44) and the three bounds checks: a data address (R30), a fetch
address (R31) and a jump target (R32). -/

namespace Sys2Proof.Machine

/-- `MemRead(addr, 1)` (R30): the operand is read as signed, the check comes before the access, and nothing is returned
where it fails. -/
def State.memRead (s : State) (addr : Int) : Option Int :=
  if addr < 0 ∨ addr ≥ s.params.dataCapacity then none
  else some (s.dmemAt addr.toNat)

/-- `MemWrite(addr, 1, v)` (R30): a failing write changes no word. -/
def State.memWrite (s : State) (addr v : Int) : Option State :=
  if addr < 0 ∨ addr ≥ s.params.dataCapacity then none
  else some (s.setDmem addr.toNat v)

/-- `IFetch(addr)` (R31): the address is read as unsigned and compared with the capacity `M`, not with `LOAD_PTR`. -/
def State.iFetch (s : State) (addr : Nat) : Option InstrWord :=
  if addr ≥ s.params.programCapacity then none
  else some (s.imemAt addr)

/-- JMP's target check (R32, R76): the operand read as signed lies in `0 .. M-1`; a negative operand is never read as a
large unsigned address. -/
def State.targetInRange (s : State) (a : Int) : Bool :=
  !(decide (a < 0) || decide (a ≥ s.params.programCapacity))

/-- What an operand is (R44). -/
inductive OperandForm where
  /-- A Data Memory word index. -/
  | dataAddress
  /-- An Instruction Memory index, absolute. -/
  | instrAddress
  /-- The exit status. -/
  | status
  /-- Ignored but still stored. -/
  | ignored
  deriving DecidableEq, Repr

/-- The operand form of each instruction (R44). -/
def operandForm : Instr → OperandForm
  | .load _ => .dataAddress
  | .add _ => .dataAddress
  | .store _ => .dataAddress
  | .sub _ => .dataAddress
  | .inp _ => .ignored
  | .out _ => .ignored
  | .endRun _ => .status
  | .jmp _ => .instrAddress
  | .skipz _ => .ignored
  | .na _ => .ignored
  | .reserved10 _ => .ignored

/-- The valid range of an operand in its form (R44): the columns "valid range" and "out of range". -/
def OperandForm.valid (f : OperandForm) (p : Params) (a : Int) : Bool :=
  match f with
  | .dataAddress => decide (0 ≤ a) && decide (a < p.dataCapacity)
  | .instrAddress => decide (0 ≤ a) && decide (a < p.programCapacity)
  | .status => true
  | .ignored => true

end Sys2Proof.Machine
end

