-- ==== Sys2Proof/Machine/Flags.lean ====
section
/-! DEFINITION. There are no condition codes: "no carry, zero, sign or overflow flag exists" (R14, R61). What there is:
the zero test of the Accumulator, made when SKIPZ executes, and the Running flag. -/

namespace Sys2Proof.Machine

/-- `zero = (ACC = 0)`: all `W` bits of the current Accumulator compared with zero (R61, R77). -/
def State.accZero (s : State) : Bool := decide (s.acc = 0)

/-- The document's Running flag: the predicate `STATE = Running` (R14). -/
def State.isRunning (s : State) : Bool := decide (s.runState = .running)

/-- A terminal state: `Halted`, `Faulted` or `Stopped`; no cycle runs in it (R63). -/
def RunState.terminal : RunState → Bool
  | .idle => false
  | .running => false
  | .halted => true
  | .faulted => true
  | .stopped => true

end Sys2Proof.Machine
end

