-- ==== Sys2Proof/Machine/Units.lean ====
section
/-! DEFINITION. The combinational sub-blocks (R51): the decoder's control word (R58), the accumulator ALU (R61) and the
program counter mux (R60). -/

namespace Sys2Proof.Machine

/-- The Data Memory operation of a control word (R58). -/
inductive DmemOp where
  | none
  | read
  | write
  deriving DecidableEq, Repr

/-- The ALU operation of a control word (R58, R61). -/
inductive AluOp where
  | hold
  | passMem
  | add
  | sub
  | passIn
  deriving DecidableEq, Repr

/-- The PC source of a control word (R58, R60). -/
inductive PcSel where
  | keep
  | target
  | skipIfZero
  deriving DecidableEq, Repr

/-- The I/O operation of a control word (R58). -/
inductive IoOp where
  | none
  | read
  | write
  deriving DecidableEq, Repr

/-- The control word of the instruction decoder (R58). -/
structure Control where
  legal : Bool
  dmem : DmemOp
  aluOp : AluOp
  accWe : Bool
  pcSel : PcSel
  io : IoOp
  halt : Bool
  deriving DecidableEq, Repr

/-- The control word of an opcode: the table of R58, one row a line, on the signed value of the whole field. -/
def controlWord (opcode : Int) : Control :=
  if opcode = 1 then ⟨true, .read, .passMem, true, .keep, .none, false⟩
  else if opcode = 2 then ⟨true, .read, .add, true, .keep, .none, false⟩
  else if opcode = 3 then ⟨true, .write, .hold, false, .keep, .none, false⟩
  else if opcode = 4 then ⟨true, .read, .sub, true, .keep, .none, false⟩
  else if opcode = 5 then ⟨true, .none, .passIn, true, .keep, .read, false⟩
  else if opcode = 6 then ⟨true, .none, .hold, false, .keep, .write, false⟩
  else if opcode = 7 then ⟨true, .none, .hold, false, .keep, .none, true⟩
  else if opcode = 8 then ⟨true, .none, .hold, false, .target, .none, false⟩
  else if opcode = 9 then ⟨true, .none, .hold, false, .skipIfZero, .none, false⟩
  else ⟨false, .none, .hold, false, .keep, .none, false⟩

/-- The accumulator ALU (R61): the next `ACC` from the current one, the word `m` read from Data Memory and the value `v`
received. Sum and difference are formed exactly and reduced modulo `2^W`; overflow is silent (R69, R71). -/
def accumulatorAlu (width : Nat) (op : AluOp) (acc m v : Int) : Int :=
  match op with
  | .hold => acc
  | .passMem => m
  | .add => Word.wrap width (acc + m)
  | .sub => Word.wrap width (acc - m)
  | .passIn => v

/-- The program counter mux (R60) in phase 4, `advanced` being the value phase 2 gave `PC` and `inRange` the target check:
the next `PC`, or nothing where a jump target is out of range. The target is `zext_W(a)`, a
non-negative number where the check passes. The skip is not checked (R77). -/
def programCounterMux (sel : PcSel) (advanced : Nat) (target : Int) (inRange zero : Bool) : Option Nat :=
  match sel with
  | .keep => some advanced
  | .target => if inRange then some target.toNat else none
  | .skipIfZero => some (if zero then advanced + 1 else advanced)

end Sys2Proof.Machine
end

