-- ==== Sys2Proof/Machine/ControlFlow.lean ====
section
/-! DEFINITION. END, JMP and SKIPZ (R75 to R77). None touches `ACC` or Data Memory. -/

namespace Sys2Proof.Machine

/-- END a: "Running flag ← false; `a` is reported as the program's exit status" (R75). `PC` stays `fpc + 1`. -/
def execEnd (a : Int) (s : State) : Host.Outcome State Fault Refusal :=
  .next ((s.advance (encode (.endRun a))).halt a)

/-- JMP a: "ProgramCounter ← a", the target checked here, before `PC` is written (R32, R76). -/
def execJmp (a : Int) (s : State) : Host.Outcome State Fault Refusal :=
  match programCounterMux .target (s.pc + 1) a (s.targetInRange a) s.accZero with
  | none => .next (s.abort .outOfBounds (encode (.jmp a)))
  | some target => .next ((s.advance (encode (.jmp a))).setPc target)

/-- SKIPZ: "if Accumulator == 0, ProgramCounter ← ProgramCounter + 1 (skip the next instruction)" (R77). -/
def execSkipz (a : Int) (s : State) : Host.Outcome State Fault Refusal :=
  match programCounterMux .skipIfZero (s.pc + 1) a (s.targetInRange a) s.accZero with
  | none => .next (s.abort .outOfBounds (encode (.skipz a)))
  | some target => .next ((s.advance (encode (.skipz a))).setPc target)

end Sys2Proof.Machine
end

