-- ==== Sys2Proof/Machine/DataMemory.lean ====
section
/-! DEFINITION. LOAD, ADD, STORE and SUB (R68 to R71). A meaning is the whole of the cycle after a successful fetch of the
instruction at `s.pc`: phases 1 and 2 (`State.advance`) and then phase 4 (assumption 6). -/

namespace Sys2Proof.Machine

/-- The shared form of the three instructions that read Data Memory: the read with its bounds check, then the ALU's result
into `ACC`; out of range, the abort with no other effect (R30, R65). -/
def readInto (op : AluOp) (w : InstrWord) (s : State) : Host.Outcome State Fault Refusal :=
  match s.memRead w.operand with
  | none => .next (s.abort .outOfBounds w)
  | some m => .next ((s.advance w).setAcc (accumulatorAlu s.params.width op s.acc m 0))

/-- LOAD a: "Accumulator ← DataMemory[a]" (R68). -/
def execLoad (a : Int) (s : State) : Host.Outcome State Fault Refusal :=
  readInto .passMem (encode (.load a)) s

/-- ADD a: "Accumulator ← Accumulator + DataMemory[a]", modulo `2^W` (R69). -/
def execAdd (a : Int) (s : State) : Host.Outcome State Fault Refusal :=
  readInto .add (encode (.add a)) s

/-- STORE a: "DataMemory[a] ← Accumulator" (R70). -/
def execStore (a : Int) (s : State) : Host.Outcome State Fault Refusal :=
  match (s.advance (encode (.store a))).memWrite a s.acc with
  | none => .next (s.abort .outOfBounds (encode (.store a)))
  | some t => .next t

/-- SUB a: "Accumulator ← Accumulator − DataMemory[a]", modulo `2^W` (R71). -/
def execSub (a : Int) (s : State) : Host.Outcome State Fault Refusal :=
  readInto .sub (encode (.sub a)) s

end Sys2Proof.Machine
end

