-- ==== Sys2Proof/Machine/Illegal.lean ====
section
/-! DEFINITION. Illegal opcodes (R78 to R80): one operation for every illegal word, the two listed rows of the opcode map
that are illegal (0 and 10), and every other opcode outside 1 to 9. -/

namespace Sys2Proof.Machine

/-- An illegal word fetched at `s.pc`: in lenient mode one report and nothing else but the fetch's own advance (R78), in
strict mode the abort with IllegalOpcode and no report (R79). -/
def illegalOpcode (w : InstrWord) (s : State) : Host.Outcome State Fault Refusal :=
  if s.strict then .next (s.abort .illegalOpcode w)
  else .next ((s.advance w).emit (.report s.pc w.opcode w.operand))

/-- Opcode 0, the "N/A" sentinel: illegal and nothing more (R80). -/
def execNa (a : Int) (s : State) : Host.Outcome State Fault Refusal :=
  illegalOpcode (encode (.na a)) s

/-- Opcode 10, reserved: illegal and nothing more (R80). -/
def execReserved10 (a : Int) (s : State) : Host.Outcome State Fault Refusal :=
  illegalOpcode (encode (.reserved10 a)) s

/-- A word whose opcode the map does not list at all (R46, R78, R79). -/
def execUnlisted (w : InstrWord) (s : State) : Host.Outcome State Fault Refusal :=
  illegalOpcode w s

end Sys2Proof.Machine
end

