-- ==== Sys2Proof/Machine/InputOutput.lean ====
section
/-! DEFINITION. IN and OUT and their use of the I/O boundary (R72 to R74). The operand is ignored, whatever its value. -/

namespace Sys2Proof.Machine

/-- IN: "Accumulator ← value read from the I/O Boundary (blocking read of one integer)" (R73). While the boundary has not
answered the step has no successor (`Fault.awaitingInput`, assumption 3); a failure aborts with `ACC` unchanged. A listed value that
is no `W`-bit word is refused (assumption 18). -/
def execIn (a : Int) (s : State) : Host.Outcome State Fault Refusal :=
  match s.readInteger with
  | .notYet => .fault .awaitingInput
  | .misfit => .refused .valueDoesNotFit
  | .fail rest => .next ((s.setInAnswers rest).abort .ioFailure (encode (.inp a)))
  | .value v rest => .next (((s.setInAnswers rest).advance (encode (.inp a))).setAcc (accumulatorAlu s.params.width .passIn s.acc 0 v))

/-- OUT: "I/O Boundary ← Accumulator (write one integer)" (R74). It never waits; a failure aborts and emits nothing. -/
def execOut (a : Int) (s : State) : Host.Outcome State Fault Refusal :=
  match s.nextOutAnswer with
  | .fail => .next (s.dropOutAnswer.abort .ioFailure (encode (.out a)))
  | .accepted => .next ((s.dropOutAnswer.advance (encode (.out a))).emit (.output s.acc))

end Sys2Proof.Machine
end

