-- ==== Sys2Proof/Machine/Dispatch.lean ====
section
/-! DEFINITION. Phase 4's dispatch: exactly one arm runs, chosen by the opcode (R54, R59). -/

namespace Sys2Proof.Machine

def exec (i : Instr) (s : State) : Host.Outcome State Fault Refusal :=
  match i with
  | .load a => Sys2Proof.Machine.execLoad a s
  | .add a => Sys2Proof.Machine.execAdd a s
  | .store a => Sys2Proof.Machine.execStore a s
  | .sub a => Sys2Proof.Machine.execSub a s
  | .inp a => Sys2Proof.Machine.execIn a s
  | .out a => Sys2Proof.Machine.execOut a s
  | .endRun a => Sys2Proof.Machine.execEnd a s
  | .jmp a => Sys2Proof.Machine.execJmp a s
  | .skipz a => Sys2Proof.Machine.execSkipz a s
  | .na a => Sys2Proof.Machine.execNa a s
  | .reserved10 a => Sys2Proof.Machine.execReserved10 a s

end Sys2Proof.Machine
end

