-- ==== Sys2Proof/Machine/Engine.lean ====
section
/-! DEFINITION. The sequencer: the phases of a cycle (R54), the load port (R39), the start command (R53), the stop request
(R55, R86), and what the host's actions do in each run state (R104). -/

namespace Sys2Proof.Machine

/-- Phases 3 and 4 on a fetched word: a word of the opcode map runs its meaning, every other word is illegal (R54, R59). -/
def dispatch (w : InstrWord) (s : State) : Host.Outcome State Fault Refusal :=
  match decode w with
  | .instr i => exec i s
  | .illegalOpcode u => execUnlisted u s

/-- One cycle (R54), `stop` being what phase 0 samples: the stop check (R55), the fetch with its bounds check (R56), then
the fetched word. -/
def cycle (stop : Bool) (s : State) : Host.Outcome State Fault Refusal :=
  if stop then .next (s.setRunState .stopped)
  else
    match s.iFetch s.pc with
    | none => .next (s.raise .outOfBounds .fetch)
    | some w => dispatch w s

/-- The engine runs cycles only while `STATE = Running`; in every other state nothing changes (R53, R54, R86). -/
def engine (stop : Bool) (s : State) : Host.Outcome State Fault Refusal :=
  if s.isRunning then cycle stop s else .next s

/-- `load(op, a)` (R39) with the pair already a word: appended at `LOAD_PTR` in `Idle` while there is room, dropped with no effect
otherwise. -/
def State.loadPair (s : State) (w : InstrWord) : State :=
  if s.runState = .idle ∧ s.loadPtr < s.params.programCapacity then
    (s.setImem s.loadPtr w).setLoadPtr (s.loadPtr + 1)
  else s

/-- `start()` (R53): effective in `Idle` only; an empty program raises MalformedProgram (R82). -/
def State.start (s : State) : State :=
  if s.runState ≠ .idle then s
  else if s.loadPtr = 0 then s.raise .malformedProgram .start
  else s.setRunState .running

/-- One action of the host (R104). A change of `strict_mode` while `Running` is not defined by the spec (R101, U8) and is
refused by name, and so is a pair that cannot be offered (R39, R48, assumption 18). -/
def hostAction (act : HostAction) (s : State) : Host.Outcome State Fault Refusal :=
  match act with
  | .reset => .next s.resetCore
  | .setStrict b =>
    if s.isRunning && decide (b ≠ s.strict) then .refused .strictChangedWhileRunning
    else .next (s.setStrict b)
  | .load op a =>
    match encodePair s.params.width (op, a) with
    | some w => .next (s.loadPair w)
    | none => .refused .valueDoesNotFit
  | .start => .next s.start
  | .cycle stop => engine stop s

/-- One step: the host's next action; with none left the host is quiet and the engine runs with the stop request low
(assumption 4). A configuration outside R5 and R9 has no meaning (U10). -/
def blockStep (s : State) : Host.Outcome State Fault Refusal :=
  if s.params.wellFormed then
    match s.host with
    | [] => engine false s
    | act :: _ => hostAction act s.takeAction
  else .refused .parametersOutOfRange

/-- The boot sequence the host must follow (R99): reset, the program's pairs in order, the start command. -/
def bootActions (prog : List InstrWord) : List HostAction :=
  .reset :: (prog.map (fun w => .load w.opcode w.operand) ++ [.start])

/-- The instruction word `w` placed where the next cycle fetches, as a load and a start would leave it: the slot at `PC`
holds `w`, `LOAD_PTR` is past it, the core runs, and the host's next action is to let it run one cycle (assumption 7). -/
def State.placeWord (s : State) (w : InstrWord) : State :=
  { s.setImem s.pc w with
    runState := .running
    loadPtr := if s.loadPtr ≤ s.pc then s.pc + 1 else s.loadPtr
    host := .cycle false :: s.host }

end Sys2Proof.Machine
end

