-- ==== Sys2Proof/Machine/Step.lean ====
section
/-! DEFINITION. The step of the machine, and the host's way of placing one instruction where the step fetches. -/

namespace Sys2Proof.Machine

/-- One step of the block. -/
def step (s : State) : Host.Outcome State Fault Refusal := blockStep s

/-- `s` with the instruction whose bits are `w` (the opcode table's numbering) stored where `step` fetches next. -/
def State.withFetchWord (s : State) (nbits w : Nat) : State := s.placeWord (tableWord s.params.width nbits w)

end Sys2Proof.Machine
end

