-- ==== Sys2Proof/Machine/Datapath.lean ====
section
/-! DEFINITION. The second description of a cycle the spec gives: the five sub-blocks driven by the control word (R51, R58,
R60 to R62). It dispatches on nothing but the control word; that it agrees with `dispatch` on every word is an obligation
("it adds no behaviour", R58). -/

namespace Sys2Proof.Machine

/-- The memory controller in phase 4 (R62): the word read (0 where nothing is read) and the state after it, or nothing
where the address is out of range. -/
def memoryPhase (op : DmemOp) (addr : Int) (s : State) : Option (Int × State) :=
  match op with
  | .none => some (0, s)
  | .read => (s.memRead addr).map (fun m => (m, s))
  | .write => (s.memWrite addr s.acc).map (fun t => (0, t))

/-- What the I/O phase leaves. -/
inductive IoResult where
  /-- Done, with the value received (0 where none is) and the state after it. -/
  | done (v : Int) (s : State)
  /-- The boundary answered `Fail`. -/
  | failed (s : State)
  /-- The boundary has not answered. -/
  | waiting
  /-- The listed value is no `W`-bit word. -/
  | misfit
  deriving DecidableEq, Repr

/-- The I/O boundary in phase 4 (R72). -/
def ioPhase (op : IoOp) (s : State) : IoResult :=
  match op with
  | .none => .done 0 s
  | .read =>
    match s.readInteger with
    | .value v rest => .done v (s.setInAnswers rest)
    | .fail rest => .failed (s.setInAnswers rest)
    | .notYet => .waiting
    | .misfit => .misfit
  | .write =>
    match s.nextOutAnswer with
    | .accepted => .done 0 (s.dropOutAnswer.emit (.output s.acc))
    | .fail => .failed s.dropOutAnswer

/-- Phase 4 by the control word: memory, I/O, then the PC mux, the ALU and the halt, each as its control signals say. -/
def datapath (w : InstrWord) (s : State) : Host.Outcome State Fault Refusal :=
  let c := controlWord w.opcode
  if c.legal then
    match memoryPhase c.dmem w.operand s with
    | none => .next (s.abort .outOfBounds w)
    | some (m, s1) =>
      match ioPhase c.io s1 with
      | .waiting => .fault .awaitingInput
      | .misfit => .refused .valueDoesNotFit
      | .failed s2 => .next (s2.abort .ioFailure w)
      | .done v s2 =>
        match programCounterMux c.pcSel (s.pc + 1) w.operand (s.targetInRange w.operand) s.accZero with
        | none => .next (s.abort .outOfBounds w)
        | some next =>
          let s3 := (s2.advance w).setPc next
          let s4 := if c.accWe then s3.setAcc (accumulatorAlu s.params.width c.aluOp s.acc m v) else s3
          .next (if c.halt then s4.halt w.operand else s4)
  else illegalOpcode w s

end Sys2Proof.Machine
end

