-- ==== Sys2Proof/Machine/Ports.lean ====
section
/-! DEFINITION. What the block shows outside (R52): the codes of `STATE` and `FAULT_KIND`, the status outputs, the result
of a run (R66), the wait of IN, the output trace and the inspection port (R40). Nothing here is read by a step. -/

namespace Sys2Proof.Machine

/-- The 3-bit code of `STATE` (R14). -/
def RunState.code : RunState → BitVec 3
  | .idle => 0
  | .running => 1
  | .halted => 2
  | .faulted => 3
  | .stopped => 4

/-- The 3-bit code of `FAULT_KIND` (R20, R81). -/
def FaultKind.code : FaultKind → BitVec 3
  | .none => 0
  | .malformedProgram => 1
  | .illegalOpcode => 2
  | .outOfBounds => 3
  | .ioFailure => 4

/-- The status outputs of the block (R52), the registers of R23 that the host sees "as outputs of the block", each of its register's
width: `STATE`, `EXIT_STATUS`, `LOAD_PTR` and the fault record. R52's port list has no row for `LOAD_PTR`: that its output stands
here and is its `W` bits (R18) is DEDUCED (assumption 19). -/
structure StatusPorts (width : Nat) where
  state : BitVec 3
  exitStatus : BitVec width
  loadPtr : BitVec width
  faultKind : BitVec 3
  faultPc : BitVec width
  faultInstr : BitVec (width + width)
  faultInstrValid : Bool
  deriving DecidableEq, Repr

/-- The status outputs show their registers (R23, R52, U19). -/
def State.statusPorts (s : State) : StatusPorts s.params.width where
  state := s.runState.code
  exitStatus := BitVec.ofInt _ s.exitStatus
  loadPtr := BitVec.ofNat _ s.loadPtr
  faultKind := s.faultKind.code
  faultPc := BitVec.ofNat _ s.faultPc
  faultInstr := s.faultInstr.toBits _
  faultInstrValid := s.faultInstrValid

/-- The result of a run (R66). -/
inductive RunResult where
  /-- `Halted`: the exit status. -/
  | exitStatus (status : Int)
  /-- `Faulted`: the fault indicator; the faulting instruction only when it is valid. -/
  | faultIndicator (kind : FaultKind) (faultPc : Nat) (instr : Option InstrWord)
  /-- `Stopped`: stopped by the host, none of the four fault kinds. -/
  | stoppedByHost
  deriving DecidableEq, Repr

/-- The result the host reads once `STATE` is terminal (R66). -/
def State.result (s : State) : Option RunResult :=
  match s.runState with
  | .idle => none
  | .running => none
  | .halted => some (.exitStatus s.exitStatus)
  | .faulted => some (.faultIndicator s.faultKind s.faultPc (if s.faultInstrValid then some s.faultInstr else none))
  | .stopped => some .stoppedByHost

/-- The word the cycle at `PC` fetches is an IN. -/
def isInWord (w : InstrWord) : Bool := decide (w.opcode = 5)

/-- `in_ready` of a cycle that passed its stop check: the core is executing IN and waits for an answer (R52). -/
def State.awaitsInput (s : State) : Bool :=
  s.isRunning && ((s.iFetch s.pc).map isInWord).getD false && decide (s.inAnswers = [])

/-- The answer the signals of the input channel carry in one clock: none, a value read from the `W` wires of `in_data` as
signed, or a failure; "if both are high in the same clock `in_fail` wins" (R52, R87). -/
def inputSignals (width : Nat) (inValid : Bool) (inData : BitVec width) (inFail : Bool) : Option InAnswer :=
  if inFail then some .fail else if inValid then some (.value inData.toInt) else none

/-- The answer `out_fail` carries in the `out_valid` clock (R52). -/
def outputSignal (outFail : Bool) : OutAnswer := if outFail then .fail else .accepted

/-- The integers OUT has handed to the I/O boundary, in order (R67). -/
def outputsOf : List Event → List Int
  | [] => []
  | .output v :: rest => v :: outputsOf rest
  | .report _ _ _ :: rest => outputsOf rest

/-- `insp_pc`, `insp_acc`, `insp_ir`, with their widths (R52). The host reads `STATE` and the other registers of R23 at the status
outputs. -/
structure InspectionPorts (width : Nat) where
  pc : BitVec width
  acc : BitVec width
  ir : BitVec (width + width)
  deriving DecidableEq, Repr

/-- The read-only snapshot of the Register Set (R40). -/
def State.inspect (s : State) : InspectionPorts s.params.width where
  pc := BitVec.ofNat _ s.pc
  acc := BitVec.ofInt _ s.acc
  ir := s.ir.toBits _

/-- `insp_dmem_data`: an index outside the memory returns 0 and raises no fault (R40). -/
def State.inspectDmem (s : State) (addr : BitVec s.params.width) : BitVec s.params.width :=
  if addr.toNat < s.params.dataCapacity then BitVec.ofInt _ (s.dmemAt addr.toNat) else 0

/-- `insp_imem_data`: an index outside the memory returns 0 and raises no fault (R40). -/
def State.inspectImem (s : State) (addr : BitVec s.params.width) : BitVec (s.params.width + s.params.width) :=
  if addr.toNat < s.params.programCapacity then (s.imemAt addr.toNat).toBits _ else 0

end Sys2Proof.Machine
end

