-- ==== Sys2Proof/Safety.lean ====
section
/-! DEFINITION. What the claims are stated in: the invariant of the block, and the parts of a state that a claim compares. -/

namespace Sys2Proof.Safety

open Sys2Proof.Machine

/-- The memories and counters are in range: the parameters are in the range of R5 and R9, both banks are in canonical form, `PC` is in
`0 .. M + 1` (R13), `LOAD_PTR` is in `0 .. M` (R18), and no slot from `LOAD_PTR` up has been written (R17, R39). -/
structure Bounded (s : State) : Prop where
  params : s.params.wellFormed = true
  dmem : Memory.wf 0 s.params.dataCapacity s.dmem = true
  imem : Memory.wf InstrWord.zero s.params.programCapacity s.imem = true
  pc : s.pc ≤ s.params.programCapacity + 1
  loadPtr : s.loadPtr ≤ s.params.programCapacity
  unloaded : ∀ c ∈ s.imem, c.1 < s.loadPtr

/-- The result registers agree with `STATE`: the fault record is written exactly by an abort and names the instruction `IR`
holds, with `PC` one past it, or the `PC` of a fetch fault, or 0 for MalformedProgram (R20, R88); `EXIT_STATUS` is 0 until
`Halted` (R19); an unstarted block holds its reset values (R22, R25); and only a loaded program runs (R53). -/
structure Recorded (s : State) : Prop where
  fault : s.faultKind ≠ .none ↔ s.runState = .faulted
  faultPc : s.runState ≠ .faulted → s.faultPc = 0
  instrValid : s.faultInstrValid = true →
    s.runState = .faulted ∧ s.faultInstr = s.ir ∧ s.pc = s.faultPc + 1 ∧ s.faultKind ≠ .malformedProgram
  instrInvalid : s.faultInstrValid = false → s.faultInstr = InstrWord.zero ∧ (s.runState = .faulted → s.faultPc = s.pc)
  fetchFault : s.runState = .faulted → s.faultInstrValid = false → s.faultKind = .outOfBounds →
    s.params.programCapacity ≤ s.faultPc
  exitStatus : s.runState ≠ .halted → s.exitStatus = 0
  unstarted : s.runState = .idle ∨ s.faultKind = .malformedProgram →
    s.acc = 0 ∧ s.pc = 0 ∧ s.ir = InstrWord.zero ∧ s.dmem = []
  loaded : s.runState ≠ .idle → s.faultKind ≠ .malformedProgram → s.loadPtr ≠ 0

/-- Every register and every memory word is a word of its width (R5, R11): the signed ones lie in `MIN .. MAX`, and so do both
fields of every instruction word; the unsigned ones are at most `M + 1`, which `W` bits hold (R9), `PC` and `LOAD_PTR` by
`Bounded`. -/
structure Sized (s : State) : Prop where
  acc : Word.fits s.params.width s.acc = true
  ir : s.ir.fits s.params.width = true
  dmem : ∀ c ∈ s.dmem, Word.fits s.params.width c.2 = true
  imem : ∀ c ∈ s.imem, c.2.fits s.params.width = true
  exitStatus : Word.fits s.params.width s.exitStatus = true
  faultPc : s.faultPc ≤ s.params.programCapacity + 1
  faultInstr : s.faultInstr.fits s.params.width = true

/-- The invariant of the block. -/
structure Inv (s : State) : Prop where
  bounded : Bounded s
  sized : Sized s
  recorded : Recorded s

/-- The block's own state (R11): everything but what stands beside it (R24) is as in `t`. -/
def SameCore (s t : State) : Prop :=
  { s with params := t.params, strict := t.strict, host := t.host, inAnswers := t.inAnswers, outAnswers := t.outAnswers,
           trace := t.trace } = t

/-- The cycle that comes next fetches `w`: the block runs, its parameters are in range, `PC` is below `M` and the slot at
`PC` holds `w`; and the host's next action, or its silence, is a cycle whose stop check finds the request low. -/
structure Fetches (s : State) (w : InstrWord) : Prop where
  params : s.params.wellFormed = true
  running : s.runState = .running
  inRange : s.pc < s.params.programCapacity
  word : s.imemAt s.pc = w
  noStop : s.host = [] ∨ ∃ rest, s.host = .cycle false :: rest

/-- `s` after phases 1 and 2 of a cycle that fetched `w`, and nothing else: `IR` holds `w`, `PC` is one further (R56, R57). -/
def fetched (s : State) (w : InstrWord) : State := { s with ir := w, pc := s.pc + 1 }

/-- `s` after a cycle that fetched `w` and faulted in phase 4 (R65, R88): `IR` holds `w`, `PC` is one further, the fault
record names `w` at the `PC` it was fetched from, the run is over, and nothing else has changed. -/
def aborted (s : State) (kind : FaultKind) (w : InstrWord) : State :=
  { s with
    ir := w, pc := s.pc + 1, runState := .faulted,
    faultKind := kind, faultPc := s.pc, faultInstr := w, faultInstrValid := true }

/-- `a` read as a signed integer is an index of Data Memory: `0 <= a <= N-1` (R30, R44). -/
def DataIndex (s : State) (a : Int) : Prop := 0 ≤ a ∧ a < s.params.dataCapacity

/-- `a` read as a signed integer is an index of Instruction Memory: `0 <= a <= M-1` (R32, R44). -/
def InstrIndex (s : State) (a : Int) : Prop := 0 ≤ a ∧ a < s.params.programCapacity

end Sys2Proof.Safety
end

