-- ==== Sys2Proof/Certificates/Slice0/Obligations.lean ====
section
/-! DEFINITION. The statements for the provers. Every statement is about every state, every configuration `W`, `N`, `M` and every
sequence of host actions and channel answers, unless its hypotheses say otherwise. -/

open Sys2Proof Sys2Proof.Machine Sys2Proof.Safety

/-! ### Encoding -/

/-- At every width `W >= 8`, the `2W` bits of every instruction whose operand is a `W`-bit word decode to it (R5, R42, R44, R45). -/
def Obligations.DecodeOfEncode : Prop :=
  ∀ (width : Nat) (i : Instr), 8 ≤ width → i.wellFormed width = true → decodeBits width (encodeBits width i) = .instr i

/-- At every width, a `2W`-bit word that decodes to an instruction is that instruction's word, and the operand read from it is a
`W`-bit word: each word has one meaning (R42, R43). -/
def Obligations.EncodeOfDecode : Prop :=
  ∀ (width : Nat) (b : BitVec (width + width)) (i : Instr), 1 ≤ width → decodeBits width b = .instr i →
    encodeBits width i = b ∧ i.wellFormed width = true

/-- R43, R45: at every width, the operation is selected by the integer value of the whole opcode field, read as signed, and the
operand is the whole operand field, read as signed. -/
def Obligations.OpcodeValueSelectsOperation : Prop :=
  ∀ (width : Nat) (opcode operand : BitVec width) (a : Int),
    let answer := decodeBits width (opcode ++ operand)
    (answer = .instr (.load a) ↔ opcode.toInt = 1 ∧ operand.toInt = a) ∧
    (answer = .instr (.add a) ↔ opcode.toInt = 2 ∧ operand.toInt = a) ∧
    (answer = .instr (.store a) ↔ opcode.toInt = 3 ∧ operand.toInt = a) ∧
    (answer = .instr (.sub a) ↔ opcode.toInt = 4 ∧ operand.toInt = a) ∧
    (answer = .instr (.inp a) ↔ opcode.toInt = 5 ∧ operand.toInt = a) ∧
    (answer = .instr (.out a) ↔ opcode.toInt = 6 ∧ operand.toInt = a) ∧
    (answer = .instr (.endRun a) ↔ opcode.toInt = 7 ∧ operand.toInt = a) ∧
    (answer = .instr (.jmp a) ↔ opcode.toInt = 8 ∧ operand.toInt = a) ∧
    (answer = .instr (.skipz a) ↔ opcode.toInt = 9 ∧ operand.toInt = a)

/-- R46: a word is illegal exactly when its opcode read as signed is below 1 or above 9, and then the decoder gives no legal
instruction: it is the sentinel, the reserved row, or rejected by name. -/
def Obligations.IllegalWordsExactly : Prop :=
  ∀ w : InstrWord,
    (w.opcode < 1 ∨ w.opcode > 9) ↔
      (decode w = .instr (.na w.operand) ∨ decode w = .instr (.reserved10 w.operand) ∨ decode w = .illegalOpcode w)

/-- Words of the spec's encoding table decode as it says, at the default width and, two of them, at the smallest (sanity). -/
def Obligations.SampleWordsDecode : Prop :=
  decodeBits 32 0x0000000100000003#64 = .instr (.load 3) ∧
  decodeBits 32 0x0000000300000009#64 = .instr (.store 9) ∧
  decodeBits 32 0x0000000500000000#64 = .instr (.inp 0) ∧
  decodeBits 32 0x00000007FFFFFFFF#64 = .instr (.endRun (-1)) ∧
  decodeBits 32 0x000000080000001D#64 = .instr (.jmp 29) ∧
  decodeBits 32 0x0000010100000000#64 = .illegalOpcode ⟨257, 0⟩ ∧
  decodeBits 8 0x07FF#16 = .instr (.endRun (-1)) ∧
  decodeBits 8 0x6300#16 = .illegalOpcode ⟨99, 0⟩

/-! ### The data-memory instructions -/

/-- R68, LOAD: in range the word at `a` becomes `ACC` and only `PC` and `IR` change beside it; out of range OutOfBounds. -/
def Obligations.LoadFollowsItsRule : Prop :=
  ∀ (s : State) (a : Int),
    encode (.load a) = ⟨1, a⟩ ∧
    (DataIndex s a → exec (.load a) s = .next { fetched s ⟨1, a⟩ with acc := s.dmemAt a.toNat }) ∧
    (¬ DataIndex s a → exec (.load a) s = .next (aborted s .outOfBounds ⟨1, a⟩))

/-- R69, ADD: in range `ACC` becomes the one `W`-bit word equal to the exact signed sum modulo `2^W`, which for words is the sum, less
`2^W` where it is above `MAX` and plus `2^W` where it is below `MIN`; only `PC` and `IR` change beside it; out of range OutOfBounds. -/
def Obligations.AddFollowsItsRule : Prop :=
  ∀ (s : State) (a : Int), 8 ≤ s.params.width →
    let W := s.params.width
    encode (.add a) = ⟨2, a⟩ ∧
    (DataIndex s a → ∃ v : Int,
      exec (.add a) s = .next { fetched s ⟨2, a⟩ with acc := v } ∧
      let sum := s.acc + s.dmemAt a.toNat
      Word.fits W v = true ∧ (2 ^ W : Int) ∣ sum - v ∧
      (Word.fits W s.acc = true → Word.fits W (s.dmemAt a.toNat) = true →
        v = if sum > Word.maxSigned W then sum - 2 ^ W else if sum < Word.minSigned W then sum + 2 ^ W else sum)) ∧
    (¬ DataIndex s a → exec (.add a) s = .next (aborted s .outOfBounds ⟨2, a⟩))

/-- R70, STORE: in range the word at `a`, and no other, becomes `ACC`; beside Data Memory only `PC` and `IR` change; out of range
OutOfBounds with no word changed. -/
def Obligations.StoreFollowsItsRule : Prop :=
  ∀ (s : State) (a : Int),
    encode (.store a) = ⟨3, a⟩ ∧
    (DataIndex s a → ∃ t : State,
      exec (.store a) s = .next t ∧
      t.dmemAt a.toNat = s.acc ∧
      (∀ b : Nat, b ≠ a.toNat → t.dmemAt b = s.dmemAt b) ∧
      { t with dmem := s.dmem } = fetched s ⟨3, a⟩) ∧
    (¬ DataIndex s a → exec (.store a) s = .next (aborted s .outOfBounds ⟨3, a⟩))

/-- R71, SUB: as ADD, with the exact signed difference, the Accumulator being the minuend. -/
def Obligations.SubFollowsItsRule : Prop :=
  ∀ (s : State) (a : Int), 8 ≤ s.params.width →
    let W := s.params.width
    encode (.sub a) = ⟨4, a⟩ ∧
    (DataIndex s a → ∃ v : Int,
      exec (.sub a) s = .next { fetched s ⟨4, a⟩ with acc := v } ∧
      let diff := s.acc - s.dmemAt a.toNat
      Word.fits W v = true ∧ (2 ^ W : Int) ∣ diff - v ∧
      (Word.fits W s.acc = true → Word.fits W (s.dmemAt a.toNat) = true →
        v = if diff > Word.maxSigned W then diff - 2 ^ W else if diff < Word.minSigned W then diff + 2 ^ W else diff)) ∧
    (¬ DataIndex s a → exec (.sub a) s = .next (aborted s .outOfBounds ⟨4, a⟩))

/-- "LOAD then STORE to the same address is a no-op on that address's value (round-trip)" (R68, T2): and on every other word. -/
def Obligations.LoadThenStoreKeepsDataMemory : Prop :=
  ∀ (s : State) (a : Int), DataIndex s a →
    ∃ t u : State, exec (.load a) s = .next t ∧ exec (.store a) t = .next u ∧
      u.acc = s.dmemAt a.toNat ∧ ∀ b : Nat, u.dmemAt b = s.dmemAt b

/-- R35a: a LOAD reads the value the STORE before it wrote to the same address, and the old word at any other address. -/
def Obligations.LoadReadsLatestStore : Prop :=
  ∀ (s : State) (a b : Int), DataIndex s a → DataIndex s b →
    ∃ t u : State, exec (.store a) s = .next t ∧ exec (.load b) t = .next u ∧
      u.acc = if a = b then s.acc else s.dmemAt b.toNat

/-- ADD and SUB of one address are inverse, overflow or not: an Accumulator that holds a word is restored and Data Memory untouched. -/
def Obligations.AddThenSubRestores : Prop :=
  ∀ (s : State) (a : Int), 8 ≤ s.params.width → Word.fits s.params.width s.acc = true → DataIndex s a →
    ∃ t u : State, exec (.add a) s = .next t ∧ exec (.sub a) t = .next u ∧ u.acc = s.acc ∧ u.dmem = s.dmem

/-- LOAD of an address then SUB of it always leaves 0 in the Accumulator (R71), so a SKIPZ that follows skips. -/
def Obligations.LoadSubSkips : Prop :=
  ∀ (s : State) (a b : Int), DataIndex s a →
    ∃ t u v : State, exec (.load a) s = .next t ∧ exec (.sub a) t = .next u ∧ exec (.skipz b) u = .next v ∧
      u.acc = 0 ∧ v.pc = s.pc + 4

/-- `LOAD a; ADD b` gives the word at `a` plus the word at `b`, modulo `2^W` and exactly when the sum is a word (T3), and the order of
the two addresses does not matter. -/
def Obligations.LoadAddCommutes : Prop :=
  ∀ (s : State) (a b : Int), 8 ≤ s.params.width → DataIndex s a → DataIndex s b →
    ∃ t u t' u' : State, exec (.load a) s = .next t ∧ exec (.add b) t = .next u ∧
      exec (.load b) s = .next t' ∧ exec (.add a) t' = .next u' ∧ u'.acc = u.acc ∧
      let sum := s.dmemAt a.toNat + s.dmemAt b.toNat
      (2 ^ s.params.width : Int) ∣ sum - u.acc ∧ (Word.fits s.params.width sum = true → u.acc = sum)

/-! ### Input and output -/

/-- IN (after R73): a value (a `W`-bit word, R72) goes to `ACC` and is consumed; a failure, an answer that is taken off the list
(assumption 14), aborts with `ACC` unchanged; while the boundary has not answered the step has no successor (assumption 3). The operand is any word. What no boundary can supply, a listed value
that is no `W`-bit word, is refused (the model's choice, assumption 18). -/
def Obligations.InFollowsItsRule : Prop :=
  ∀ (s : State) (a : Int),
    encode (.inp a) = ⟨5, a⟩ ∧
    (∀ (v : Int) (rest : List InAnswer), s.inAnswers = .value v :: rest →
      (Word.fits s.params.width v = true → exec (.inp a) s = .next { fetched s ⟨5, a⟩ with acc := v, inAnswers := rest }) ∧
      (Word.fits s.params.width v = false → exec (.inp a) s = .refused .valueDoesNotFit)) ∧
    (∀ rest : List InAnswer, s.inAnswers = .fail :: rest →
      exec (.inp a) s = .next { aborted s .ioFailure ⟨5, a⟩ with inAnswers := rest }) ∧
    (s.inAnswers = [] → exec (.inp a) s = .fault .awaitingInput)

/-- R74, OUT: an accepted value joins the trace and nothing but `PC` and `IR` changes; a failure aborts and emits nothing. -/
def Obligations.OutFollowsItsRule : Prop :=
  ∀ (s : State) (a : Int),
    encode (.out a) = ⟨6, a⟩ ∧
    (s.nextOutAnswer = .accepted →
      exec (.out a) s =
        .next { fetched s ⟨6, a⟩ with trace := s.trace ++ [.output s.acc], outAnswers := s.outAnswers.tail }) ∧
    (s.nextOutAnswer = .fail →
      exec (.out a) s = .next { aborted s .ioFailure ⟨6, a⟩ with outAnswers := s.outAnswers.tail })

/-- Two INs in a row keep only the second value, and consume both in the order supplied (R72, R73). -/
def Obligations.InputsConsumedInOrder : Prop :=
  ∀ (s : State) (a b v x : Int) (rest : List InAnswer), s.inAnswers = .value v :: .value x :: rest →
    Word.fits s.params.width v = true → Word.fits s.params.width x = true →
    ∃ t u : State, exec (.inp a) s = .next t ∧ exec (.inp b) t = .next u ∧
      t.acc = v ∧ u.acc = x ∧ u.inAnswers = rest ∧ u.dmem = s.dmem

/-- R44: the operand of IN, OUT and SKIPZ is ignored: two operands give the same next state up to the instruction word that `IR`
and the fault record hold, and neither of them an OutOfBounds fault. -/
def Obligations.IgnoredOperandHasNoEffect : Prop :=
  ∀ (s t : State) (a b : Int) (mk : Int → Instr), mk = .inp ∨ mk = .out ∨ mk = .skipz →
    exec (mk a) s = .next t →
      ∃ u : State, exec (mk b) s = .next u ∧
        { u with ir := t.ir, faultInstr := t.faultInstr } = t ∧ (t.faultKind = .outOfBounds → s.faultKind = .outOfBounds)

/-! ### Control -/

/-- R75, END: the operand becomes the exit status the host reads, the run is `Halted`, `PC` is one past the END, nothing else but
`IR` changes, and no cycle follows: a later step that takes no reset leaves the block as END left it. -/
def Obligations.EndFollowsItsRule : Prop :=
  ∀ (s : State) (a : Int),
    encode (.endRun a) = ⟨7, a⟩ ∧
    ∃ t : State, exec (.endRun a) s = .next t ∧
      t = { fetched s ⟨7, a⟩ with exitStatus := a, runState := .halted } ∧ t.result = some (.exitStatus a) ∧
      ∀ u : State, t.host.head? ≠ some .reset → step t = .next u → SameCore t u

/-- R76, JMP: an index of Instruction Memory becomes `PC`, and nothing else but `IR` changes; any other operand is OutOfBounds, with
`PC` one past the JMP. -/
def Obligations.JmpFollowsItsRule : Prop :=
  ∀ (s : State) (a : Int),
    encode (.jmp a) = ⟨8, a⟩ ∧
    (InstrIndex s a → exec (.jmp a) s = .next { fetched s ⟨8, a⟩ with pc := a.toNat }) ∧
    (¬ InstrIndex s a → exec (.jmp a) s = .next (aborted s .outOfBounds ⟨8, a⟩))

/-- R77, SKIPZ: `PC` ends two further when all bits of `ACC` are 0 and one further otherwise; nothing else but `IR` changes, and
there is no bounds check. -/
def Obligations.SkipzFollowsItsRule : Prop :=
  ∀ (s : State) (a : Int),
    encode (.skipz a) = ⟨9, a⟩ ∧
    (s.acc = 0 → exec (.skipz a) s = .next { fetched s ⟨9, a⟩ with pc := s.pc + 2 }) ∧
    (s.acc ≠ 0 → exec (.skipz a) s = .next (fetched s ⟨9, a⟩))

/-! ### Illegal opcodes -/

/-- R78: in lenient mode an illegal word, listed in the opcode map or not, is reported and skipped: one report, `PC` one further,
`IR` written, and no state otherwise changes. -/
def Obligations.IllegalWordSkippedWhenLenient : Prop :=
  ∀ (s : State) (w : InstrWord), w.opcode < 1 ∨ w.opcode > 9 → s.strict = false →
    dispatch w s = .next { fetched s w with trace := s.trace ++ [.report s.pc w.opcode w.operand] }

/-- R79: in strict mode an illegal word aborts the run with IllegalOpcode and emits no report. -/
def Obligations.IllegalWordFaultsWhenStrict : Prop :=
  ∀ (s : State) (w : InstrWord), w.opcode < 1 ∨ w.opcode > 9 → s.strict = true →
    dispatch w s = .next (aborted s .illegalOpcode w)

/-- R80: opcodes 0 and 10 are illegal and nothing more: each is reported and skipped in lenient mode and aborts in strict mode. -/
def Obligations.SentinelAndReservedAreIllegal : Prop :=
  ∀ (s : State) (a : Int),
    (s.strict = false →
      exec (.na a) s = .next { fetched s ⟨0, a⟩ with trace := s.trace ++ [.report s.pc 0 a] } ∧
      exec (.reserved10 a) s = .next { fetched s ⟨10, a⟩ with trace := s.trace ++ [.report s.pc 10 a] }) ∧
    (s.strict = true →
      exec (.na a) s = .next (aborted s .illegalOpcode ⟨0, a⟩) ∧
      exec (.reserved10 a) s = .next (aborted s .illegalOpcode ⟨10, a⟩))

/-! ### What every instruction does and leaves alone -/

/-- The control word adds no behaviour (R58): driving the five sub-blocks by it does, on every word and in every state, what the
dispatch on the instruction does. -/
def Obligations.ControlWordDrivesTheSameCycle : Prop := ∀ (w : InstrWord) (s : State), datapath w s = dispatch w s

/-- After an instruction `IR` holds its word, and `PC` is the JMP's target when that is in range, two further after a taken SKIPZ,
and one further in every other case, every fault included. -/
def Obligations.NextProgramCounterOfAnInstruction : Prop :=
  ∀ (i : Instr) (s t : State), exec i s = .next t →
    t.ir = encode i ∧
    (∀ a : Int, i = .jmp a → InstrIndex s a → t.pc = a.toNat) ∧
    (∀ a : Int, i = .skipz a → s.acc = 0 → t.pc = s.pc + 2) ∧
    ((∀ a : Int, i = .jmp a → ¬ InstrIndex s a) → (∀ a : Int, i = .skipz a → s.acc ≠ 0) → t.pc = s.pc + 1)

/-- R65: a fetched word that ends the run with a fault has had none of its effects: the next state is the abort's record and
what the fetch did, but for the channel answer it got. -/
def Obligations.FaultingInstructionHasNoEffect : Prop :=
  ∀ (w : InstrWord) (s t : State), s.runState ≠ .faulted → dispatch w s = .next t → t.runState = .faulted →
    { t with inAnswers := s.inAnswers, outAnswers := s.outAnswers } = aborted s t.faultKind w

/-- R44: an operand outside the valid range of its form, and nothing else about an instruction, makes it OutOfBounds. -/
def Obligations.OutOfBoundsExactlyForInvalidOperands : Prop :=
  ∀ (i : Instr) (s : State), s.faultKind = .none →
    ((∃ t : State, exec i s = .next t ∧ t.faultKind = .outOfBounds) ↔
      (operandForm i).valid s.params i.operand = false)

/-- Each instruction has one fault condition (R87): a fault it ends in is the one of its kind. -/
def Obligations.OneFaultConditionEach : Prop :=
  ∀ (i : Instr) (s t : State), s.runState = .running → exec i s = .next t → t.runState = .faulted →
    match i with
    | .load _ | .add _ | .store _ | .sub _ | .jmp _ => t.faultKind = .outOfBounds
    | .inp _ | .out _ => t.faultKind = .ioFailure
    | .na _ | .reserved10 _ => t.faultKind = .illegalOpcode ∧ s.strict = true
    | .endRun _ | .skipz _ => False

/-- STORE is the only instruction that writes Data Memory, and it writes the one word its operand names: every other word, and
every word for every other instruction, reads as before (R16, R29, C3). -/
def Obligations.OnlyStoreWritesDataMemory : Prop :=
  ∀ (i : Instr) (s t : State), exec i s = .next t →
    (∀ a : Int, i = .store a → ∀ b : Nat, b ≠ a.toNat → t.dmemAt b = s.dmemAt b) ∧
    ((∀ a : Int, i ≠ .store a) → ∀ b : Nat, t.dmemAt b = s.dmemAt b)

/-- R12: LOAD, ADD, SUB and IN write the Accumulator, and no other instruction does. -/
def Obligations.OnlyFourWriteTheAccumulator : Prop :=
  ∀ (i : Instr) (s t : State), exec i s = .next t →
    (∀ a : Int, i ≠ .load a ∧ i ≠ .add a ∧ i ≠ .sub a ∧ i ≠ .inp a) → t.acc = s.acc

/-- What no instruction touches (R17, R18, R23): Instruction Memory, `LOAD_PTR`, the parameters, the mode input and the host's
coming actions; and only IN takes an answer from the input channel, only OUT one from the output channel. -/
def Obligations.InstructionsLeaveTheHostSideAlone : Prop :=
  ∀ (i : Instr) (s t : State), exec i s = .next t →
    t.imem = s.imem ∧ t.loadPtr = s.loadPtr ∧ t.params = s.params ∧ t.strict = s.strict ∧ t.host = s.host ∧
    ((∀ a : Int, i ≠ .inp a) → t.inAnswers = s.inAnswers) ∧ ((∀ a : Int, i ≠ .out a) → t.outAnswers = s.outAnswers)

/-- The result registers' frame: only END writes `EXIT_STATUS` (R19); an instruction that ends the run in no fault leaves the fault
record as it was (R20); and `STATE` changes to nothing but `Halted`, by END, or `Faulted`. -/
def Obligations.ResultRegistersFrame : Prop :=
  ∀ (i : Instr) (s t : State), exec i s = .next t →
    ((∀ a : Int, i ≠ .endRun a) → t.exitStatus = s.exitStatus) ∧
    (t.runState ≠ .faulted →
      t.faultKind = s.faultKind ∧ t.faultPc = s.faultPc ∧ t.faultInstr = s.faultInstr ∧
        t.faultInstrValid = s.faultInstrValid) ∧
    (t.runState = s.runState ∨ t.runState = .faulted ∨ ∃ a : Int, i = .endRun a ∧ t.runState = .halted)

/-- Events: an instruction emits nothing, or OUT its Accumulator, or an illegal word in lenient mode its report; what was
emitted before stays. -/
def Obligations.EventsOfAnInstruction : Prop :=
  ∀ (i : Instr) (s t : State), exec i s = .next t →
    t.trace = s.trace ∨
    ((∃ a : Int, i = .out a) ∧ t.trace = s.trace ++ [.output s.acc]) ∨
    (s.strict = false ∧ (∃ a : Int, i = .na a ∨ i = .reserved10 a) ∧
      t.trace = s.trace ++ [.report s.pc i.opcode i.operand])

/-! ### The step -/

/-- A step whose cycle fetches a word that decodes to an instruction is that instruction's `exec`, once the host's action has been
taken off its list (assumptions 4 and 6); a word that decodes to none is the illegal-opcode case of the same state. -/
def Obligations.StepRunsTheDecodedInstruction : Prop :=
  ∀ (s : State) (w : InstrWord), Fetches s w →
    (∀ i : Instr, decode w = .instr i → step s = exec i s.takeAction) ∧
    (∀ u : InstrWord, decode w = .illegalOpcode u → step s = execUnlisted w s.takeAction)

/-- The table's word placed by `withFetchWord` (the model's own operation, assumption 7) runs in the very next step, at every width and
wherever `PC` is inside Instruction Memory. -/
def Obligations.PlacedWordRunsNext : Prop :=
  ∀ (s : State) (nbits w : Nat) (i : Instr), s.params.wellFormed = true → s.pc < s.params.programCapacity →
    decodeTableWordAt s.params.width nbits w = some i →
    ∃ t : State, step (s.withFetchWord nbits w) = exec i t ∧ t.pc = s.pc ∧ t.acc = s.acc ∧ t.dmem = s.dmem ∧ t.host = s.host

/-- R56: in a cycle that passed its stop check, a `PC` at or above `M` is a fetch fault: `PC` and `IR` keep their values, the record
names `PC`, and no instruction is recorded as faulting. Otherwise `IR` is the word of the slot at `PC`. -/
def Obligations.FetchPhase : Prop :=
  ∀ s : State, s.params.wellFormed = true → s.runState = .running →
    s.host = [] ∨ (∃ rest, s.host = .cycle false :: rest) →
    (s.params.programCapacity ≤ s.pc →
      step s = .next { s.takeAction with
        runState := .faulted, faultKind := .outOfBounds, faultPc := s.pc, faultInstrValid := false }) ∧
    (s.pc < s.params.programCapacity → ∀ t : State, step s = .next t → t.ir = s.imemAt s.pc)

/-- R60: over a whole cycle the next `PC` is: unchanged where the stop request is taken or the fetch faults; the operand of a JMP
with an index of Instruction Memory; two further for a SKIPZ with `ACC` 0; and one further in every other case, every execute-phase
fault included. -/
def Obligations.NextProgramCounterOfACycle : Prop :=
  ∀ (s t : State) (stop : Bool) (rest : List HostAction),
    s.runState = .running → s.host = .cycle stop :: rest → step s = .next t →
    let w := s.imemAt s.pc
    (stop = true ∨ s.params.programCapacity ≤ s.pc → t.pc = s.pc) ∧
    (stop = false → s.pc < s.params.programCapacity →
      (w.opcode = 8 → InstrIndex s w.operand → t.pc = w.operand.toNat) ∧
      (w.opcode = 9 → s.acc = 0 → t.pc = s.pc + 2) ∧
      (¬ (w.opcode = 8 ∧ InstrIndex s w.operand) → ¬ (w.opcode = 9 ∧ s.acc = 0) → t.pc = s.pc + 1))

/-- R86, R55: a stop request high at phase 0 of a cycle makes the state `Stopped` and changes nothing else, whatever the fetch would
do; in every state but `Running` it has no effect. -/
def Obligations.StopRequestEndsTheRun : Prop :=
  ∀ (s : State) (rest : List HostAction), s.params.wellFormed = true → s.host = .cycle true :: rest →
    (s.runState = .running → step s = .next { s with host := rest, runState := .stopped }) ∧
    (s.runState ≠ .running → step s = .next { s with host := rest })

/-- R90, R98: a terminal state is left only by reset: a step that takes no reset leaves every part of the block's own state as it
was, and emits nothing. -/
def Obligations.TerminalStateLeftOnlyByReset : Prop :=
  ∀ s t : State, s.runState.terminal = true → s.host.head? ≠ some .reset → step s = .next t →
    SameCore s t ∧ t.trace = s.trace ∧ t.inAnswers = s.inAnswers ∧ t.outAnswers = s.outAnswers

/-- R53: the start command: in `Idle` with a program loaded the run begins; with none the block is `Faulted` with MalformedProgram,
`FAULT_PC` 0 and no instruction; in any other state it has no effect. -/
def Obligations.StartCommand : Prop :=
  ∀ (s : State) (rest : List HostAction), s.params.wellFormed = true → s.host = .start :: rest →
    (s.runState = .idle → s.loadPtr ≠ 0 → step s = .next { s with host := rest, runState := .running }) ∧
    (s.runState = .idle → s.loadPtr = 0 →
      step s = .next { s with
        host := rest, runState := .faulted, faultKind := .malformedProgram, faultPc := 0, faultInstrValid := false }) ∧
    (s.runState ≠ .idle → step s = .next { s with host := rest })

/-- The load port (after R39): in `Idle` with room the pair, each integer a `W`-bit word, goes to the slot at `LOAD_PTR`, every other slot
keeps its word, and `LOAD_PTR` is one further; with the memory full or in any other state the pair is dropped with no effect. A pair
that cannot be offered, because an integer of it is no `W`-bit word, is refused (the model's choice, assumption 18). -/
def Obligations.LoadPort : Prop :=
  ∀ (s : State) (op a : Int) (rest : List HostAction), s.params.wellFormed = true → s.host = .load op a :: rest →
    (Word.fits s.params.width op = true → Word.fits s.params.width a = true →
      (s.runState = .idle → s.loadPtr < s.params.programCapacity →
        ∃ t : State, step s = .next t ∧
          t.imemAt s.loadPtr = ⟨op, a⟩ ∧
          (∀ k : Nat, k ≠ s.loadPtr → t.imemAt k = s.imemAt k) ∧
          t.loadPtr = s.loadPtr + 1 ∧
          { t with imem := s.imem, loadPtr := s.loadPtr, host := s.host } = s) ∧
      (s.runState ≠ .idle ∨ s.params.programCapacity ≤ s.loadPtr → step s = .next { s with host := rest })) ∧
    (Word.fits s.params.width op = false ∨ Word.fits s.params.width a = false → step s = .refused .valueDoesNotFit)

/-- R97: reset puts every piece of the block's state at the value R25 gives, from any state, and does not set the capacities. -/
def Obligations.ResetFromAnyState : Prop :=
  ∀ (s : State) (rest : List HostAction), s.params.wellFormed = true → s.host = .reset :: rest →
    ∃ t : State, step s = .next t ∧
      t.acc = 0 ∧ t.pc = 0 ∧ t.runState = .idle ∧ t.ir = ⟨0, 0⟩ ∧ t.loadPtr = 0 ∧ t.exitStatus = 0 ∧
      t.faultKind = .none ∧ t.faultPc = 0 ∧ t.faultInstr = ⟨0, 0⟩ ∧ t.faultInstrValid = false ∧
      (∀ k : Nat, t.dmemAt k = 0) ∧ (∀ k : Nat, t.imemAt k = ⟨0, 0⟩) ∧ t.params = s.params

/-- R25: the reset state: every register, both memories at every index. -/
def Obligations.ResetState : Prop :=
  let r := State.reset
  r.acc = 0 ∧ r.pc = 0 ∧ r.runState = .idle ∧ r.ir = ⟨0, 0⟩ ∧ r.loadPtr = 0 ∧ r.exitStatus = 0 ∧
  r.faultKind = .none ∧ r.faultPc = 0 ∧ r.faultInstr = ⟨0, 0⟩ ∧ r.faultInstrValid = false ∧
  (∀ k : Nat, r.dmemAt k = 0) ∧ (∀ k : Nat, r.imemAt k = ⟨0, 0⟩)

/-- R101: a change of `strict_mode` while `Running`, which the spec gives no meaning, is refused by name (the model's choice, after U8,
assumption 11); at any other time, and to the level it has, it is taken. -/
def Obligations.StrictModeChange : Prop :=
  ∀ (s : State) (b : Bool) (rest : List HostAction), s.params.wellFormed = true → s.host = .setStrict b :: rest →
    (s.runState = .running → b ≠ s.strict → step s = .refused .strictChangedWhileRunning) ∧
    (s.runState ≠ .running ∨ b = s.strict → step s = .next { s with host := rest, strict := b })

/-- A configuration outside R5 and R9 has no meaning: every step of it is refused by name, whatever the host does (U10; that the
refusal comes at every step, reset included, is the model's choice, assumption 12). -/
def Obligations.ParametersOutOfRangeAreRefused : Prop :=
  ∀ s : State,
    s.params.width < 8 ∨ s.params.dataCapacity = 0 ∨ s.params.programCapacity = 0 ∨
      s.params.dataCapacity > Word.maxSigned s.params.width ∨ s.params.programCapacity > Word.maxSigned s.params.width →
    step s = .refused .parametersOutOfRange

/-! ### Whole-machine rules -/

/-- The reset state satisfies the invariant. -/
def Obligations.InvAtReset : Prop := Inv State.reset

/-- Every step keeps the invariant and the parameters (R5 to R7): every register and memory word a word of its width, both memories
canonical and inside their capacities, `PC` in `0 .. M+1`, `LOAD_PTR` in `0 .. M`, no slot beyond `LOAD_PTR` written, and the
result registers in agreement with `STATE`. -/
def Obligations.StepKeepsInv : Prop := ∀ s t : State, Inv s → step s = .next t → Inv t ∧ t.params = s.params

/-- R63, R75: `Halted` is reached only by a cycle that fetched an END, and the exit status is that END's operand. -/
def Obligations.HaltedOnlyByEnd : Prop :=
  ∀ s t : State, s.runState ≠ .halted → step s = .next t → t.runState = .halted →
    s.runState = .running ∧ t.ir = s.imemAt s.pc ∧ t.ir.opcode = 7 ∧ t.exitStatus = t.ir.operand

/-- R17, R37: Instruction Memory and `LOAD_PTR` do not change while the core runs: a step from `Running` that takes no reset leaves
them as they are. -/
def Obligations.InstructionMemoryReadOnlyWhileRunning : Prop :=
  ∀ s t : State, s.runState = .running → s.host.head? ≠ some .reset → step s = .next t →
    t.imem = s.imem ∧ t.loadPtr = s.loadPtr

/-- Data Memory changes only by reset and by a STORE that ran: a step that changes any word of it and takes no reset fetched a
STORE whose operand is that word's index, and wrote `ACC` there (R16). -/
def Obligations.DataMemoryWrittenOnlyByStore : Prop :=
  ∀ (s t : State) (k : Nat), s.host.head? ≠ some .reset → step s = .next t → t.dmemAt k ≠ s.dmemAt k →
    s.runState = .running ∧ t.ir = s.imemAt s.pc ∧ t.ir.opcode = 3 ∧ t.ir.operand = k ∧ t.dmemAt k = s.acc

/-- R20, R90: the fault record is written at most once between two resets: a step that changes any of its four registers and
takes no reset goes from a state that is not terminal to `Faulted`. -/
def Obligations.FaultRecordWrittenOnce : Prop :=
  ∀ s t : State, s.host.head? ≠ some .reset → step s = .next t →
    t.faultKind ≠ s.faultKind ∨ t.faultPc ≠ s.faultPc ∨ t.faultInstr ≠ s.faultInstr ∨
      t.faultInstrValid ≠ s.faultInstrValid →
    s.runState.terminal = false ∧ t.runState = .faulted

/-- The trace only grows, by at most one event a step (R24e, R67). -/
def Obligations.TraceGrowsByAtMostOneEvent : Prop :=
  ∀ s t : State, step s = .next t → t.trace = s.trace ∨ ∃ e : Event, t.trace = s.trace ++ [e]

/-- "They carry nothing from one cycle to the next" (R15): what `IR` held before a cycle that fetches has no influence on that
step. -/
def Obligations.FetchRegistersCarryNothing : Prop :=
  ∀ (s : State) (w x : InstrWord), Fetches s w → step { s with ir := x } = step s

/-- "No rule reads them back" (R24): from two states that differ only in the events emitted so far a step goes to states that
differ in nothing else, and appends the same events to both. -/
def Obligations.TraceIsNotReadBack : Prop :=
  ∀ (s t : State) (tr : List Event), step s = .next t →
    ∃ es : List Event, t.trace = s.trace ++ es ∧ step { s with trace := tr } = .next { t with trace := tr ++ es }

/-- Nothing but a waiting IN, and nothing but the excluded uses of the block, stops the model: with parameters in range, no mode
change in mid-run, and `W`-bit words at the load port and the input channel, a step has no successor exactly when the core runs, the
stop request is low, the word at `PC` is an IN and the channel has not answered (R64, U13; the stuck state's name and the host's
actions as a list are the model's, assumptions 3 and 4). -/
def Obligations.OnlyAWaitingInputHasNoSuccessor : Prop :=
  ∀ s : State, s.params.wellFormed = true →
    (∀ b : Bool, s.host.head? ≠ some (.setStrict b)) →
    (∀ op a : Int, s.host.head? = some (.load op a) → pairWellFormed s.params.width (op, a) = true) →
    (∀ v : Int, s.inAnswers.head? = some (.value v) → Word.fits s.params.width v = true) →
    ((∃ t : State, step s = .next t) ∨
      (step s = .fault .awaitingInput ∧ s.awaitsInput = true ∧ (s.host = [] ∨ ∃ rest, s.host = .cycle false :: rest))) ∧
    (s.awaitsInput = true → (s.host = [] ∨ ∃ rest, s.host = .cycle false :: rest) → step s = .fault .awaitingInput)

/-- R31, R80: in a state of the invariant, a cycle whose `PC` lies at or beyond `LOAD_PTR` but inside the capacity fetches the
unloaded slot's (0, 0) without a fault, and in lenient mode reports and skips it. -/
def Obligations.UnloadedSlotIsIllegal : Prop :=
  ∀ s : State, Inv s → s.runState = .running → s.strict = false →
    s.loadPtr ≤ s.pc → s.pc < s.params.programCapacity →
    s.host = [] ∨ (∃ rest, s.host = .cycle false :: rest) →
    step s = .next { fetched s.takeAction ⟨0, 0⟩ with trace := s.trace ++ [.report s.pc 0 0] }

/-- Equal memories are equal data: two banks in canonical form that read alike at every index are the same list. -/
def Obligations.CanonicalBanksAreUnique : Prop :=
  ∀ (cap : Nat) (m n : List (Nat × Int)), Memory.wf 0 cap m = true → Memory.wf 0 cap n = true →
    (∀ k : Nat, Memory.read 0 m k = Memory.read 0 n k) → m = n

/-- R99, R39: from any state whatever, the boot sequence (reset, the pairs in order, start) of one to `M` pairs of words leaves the core
`Running` at `PC` 0 with `ACC` 0, Data Memory all zero, the pairs in order from slot 0, every other slot (0, 0), and `LOAD_PTR` their
number. -/
def Obligations.BootSequence : Prop :=
  ∀ (s : State) (prog : List InstrWord) (rest : List HostAction), s.params.wellFormed = true →
    prog ≠ [] → prog.length ≤ s.params.programCapacity → (∀ w ∈ prog, w.fits s.params.width = true) →
    s.host = bootActions prog ++ rest →
    ∃ t : State, core.run (prog.length + 2) s = .next t ∧
      t.runState = .running ∧ t.pc = 0 ∧ t.acc = 0 ∧ t.loadPtr = prog.length ∧ t.host = rest ∧
      (∀ k : Nat, t.dmemAt k = 0) ∧ (∀ k : Nat, t.imemAt k = (prog[k]?).getD ⟨0, 0⟩)

/-- R40: the inspection port returns the word inside a memory and 0 outside it, on its `W` and `2W` wires. -/
def Obligations.InspectionPort : Prop :=
  ∀ (s : State) (a : BitVec s.params.width),
    (a.toNat < s.params.dataCapacity → Word.fits s.params.width (s.dmemAt a.toNat) = true → 1 ≤ s.params.width →
      (s.inspectDmem a).toInt = s.dmemAt a.toNat) ∧
    (s.params.dataCapacity ≤ a.toNat → s.inspectDmem a = 0) ∧
    (a.toNat < s.params.programCapacity → (s.imemAt a.toNat).fits s.params.width = true → 1 ≤ s.params.width →
      InstrWord.ofBits s.params.width (s.inspectImem a) = s.imemAt a.toNat) ∧
    (s.params.programCapacity ≤ a.toNat → s.inspectImem a = 0)
end

