-- ==== Sys2Proof/Laws/State.lean ====
section
/-! SUPPORT. One lemma per field of `State` per named update: what the update leaves in that field. -/

namespace Sys2Proof.Machine

/-! ### `State.setAcc` -/

@[simp] theorem State.setAcc_acc (s : State) (v : Int) : (s.setAcc v).acc = v := rfl
@[simp] theorem State.setAcc_pc (s : State) (v : Int) : (s.setAcc v).pc = s.pc := rfl
@[simp] theorem State.setAcc_runState (s : State) (v : Int) : (s.setAcc v).runState = s.runState := rfl
@[simp] theorem State.setAcc_ir (s : State) (v : Int) : (s.setAcc v).ir = s.ir := rfl
@[simp] theorem State.setAcc_dmem (s : State) (v : Int) : (s.setAcc v).dmem = s.dmem := rfl
@[simp] theorem State.setAcc_imem (s : State) (v : Int) : (s.setAcc v).imem = s.imem := rfl
@[simp] theorem State.setAcc_loadPtr (s : State) (v : Int) : (s.setAcc v).loadPtr = s.loadPtr := rfl
@[simp] theorem State.setAcc_exitStatus (s : State) (v : Int) : (s.setAcc v).exitStatus = s.exitStatus := rfl
@[simp] theorem State.setAcc_faultKind (s : State) (v : Int) : (s.setAcc v).faultKind = s.faultKind := rfl
@[simp] theorem State.setAcc_faultPc (s : State) (v : Int) : (s.setAcc v).faultPc = s.faultPc := rfl
@[simp] theorem State.setAcc_faultInstr (s : State) (v : Int) : (s.setAcc v).faultInstr = s.faultInstr := rfl
@[simp] theorem State.setAcc_faultInstrValid (s : State) (v : Int) : (s.setAcc v).faultInstrValid = s.faultInstrValid := rfl
@[simp] theorem State.setAcc_params (s : State) (v : Int) : (s.setAcc v).params = s.params := rfl
@[simp] theorem State.setAcc_strict (s : State) (v : Int) : (s.setAcc v).strict = s.strict := rfl
@[simp] theorem State.setAcc_host (s : State) (v : Int) : (s.setAcc v).host = s.host := rfl
@[simp] theorem State.setAcc_inAnswers (s : State) (v : Int) : (s.setAcc v).inAnswers = s.inAnswers := rfl
@[simp] theorem State.setAcc_outAnswers (s : State) (v : Int) : (s.setAcc v).outAnswers = s.outAnswers := rfl
@[simp] theorem State.setAcc_trace (s : State) (v : Int) : (s.setAcc v).trace = s.trace := rfl

/-! ### `State.setPc` -/

@[simp] theorem State.setPc_acc (s : State) (v : Nat) : (s.setPc v).acc = s.acc := rfl
@[simp] theorem State.setPc_pc (s : State) (v : Nat) : (s.setPc v).pc = v := rfl
@[simp] theorem State.setPc_runState (s : State) (v : Nat) : (s.setPc v).runState = s.runState := rfl
@[simp] theorem State.setPc_ir (s : State) (v : Nat) : (s.setPc v).ir = s.ir := rfl
@[simp] theorem State.setPc_dmem (s : State) (v : Nat) : (s.setPc v).dmem = s.dmem := rfl
@[simp] theorem State.setPc_imem (s : State) (v : Nat) : (s.setPc v).imem = s.imem := rfl
@[simp] theorem State.setPc_loadPtr (s : State) (v : Nat) : (s.setPc v).loadPtr = s.loadPtr := rfl
@[simp] theorem State.setPc_exitStatus (s : State) (v : Nat) : (s.setPc v).exitStatus = s.exitStatus := rfl
@[simp] theorem State.setPc_faultKind (s : State) (v : Nat) : (s.setPc v).faultKind = s.faultKind := rfl
@[simp] theorem State.setPc_faultPc (s : State) (v : Nat) : (s.setPc v).faultPc = s.faultPc := rfl
@[simp] theorem State.setPc_faultInstr (s : State) (v : Nat) : (s.setPc v).faultInstr = s.faultInstr := rfl
@[simp] theorem State.setPc_faultInstrValid (s : State) (v : Nat) : (s.setPc v).faultInstrValid = s.faultInstrValid := rfl
@[simp] theorem State.setPc_params (s : State) (v : Nat) : (s.setPc v).params = s.params := rfl
@[simp] theorem State.setPc_strict (s : State) (v : Nat) : (s.setPc v).strict = s.strict := rfl
@[simp] theorem State.setPc_host (s : State) (v : Nat) : (s.setPc v).host = s.host := rfl
@[simp] theorem State.setPc_inAnswers (s : State) (v : Nat) : (s.setPc v).inAnswers = s.inAnswers := rfl
@[simp] theorem State.setPc_outAnswers (s : State) (v : Nat) : (s.setPc v).outAnswers = s.outAnswers := rfl
@[simp] theorem State.setPc_trace (s : State) (v : Nat) : (s.setPc v).trace = s.trace := rfl

/-! ### `State.setDmem` -/

@[simp] theorem State.setDmem_acc (s : State) (a : Nat) (v : Int) : (s.setDmem a v).acc = s.acc := rfl
@[simp] theorem State.setDmem_pc (s : State) (a : Nat) (v : Int) : (s.setDmem a v).pc = s.pc := rfl
@[simp] theorem State.setDmem_runState (s : State) (a : Nat) (v : Int) : (s.setDmem a v).runState = s.runState := rfl
@[simp] theorem State.setDmem_ir (s : State) (a : Nat) (v : Int) : (s.setDmem a v).ir = s.ir := rfl
@[simp] theorem State.setDmem_dmem (s : State) (a : Nat) (v : Int) : (s.setDmem a v).dmem = Memory.write 0 s.dmem a v := rfl
@[simp] theorem State.setDmem_imem (s : State) (a : Nat) (v : Int) : (s.setDmem a v).imem = s.imem := rfl
@[simp] theorem State.setDmem_loadPtr (s : State) (a : Nat) (v : Int) : (s.setDmem a v).loadPtr = s.loadPtr := rfl
@[simp] theorem State.setDmem_exitStatus (s : State) (a : Nat) (v : Int) : (s.setDmem a v).exitStatus = s.exitStatus := rfl
@[simp] theorem State.setDmem_faultKind (s : State) (a : Nat) (v : Int) : (s.setDmem a v).faultKind = s.faultKind := rfl
@[simp] theorem State.setDmem_faultPc (s : State) (a : Nat) (v : Int) : (s.setDmem a v).faultPc = s.faultPc := rfl
@[simp] theorem State.setDmem_faultInstr (s : State) (a : Nat) (v : Int) : (s.setDmem a v).faultInstr = s.faultInstr := rfl
@[simp] theorem State.setDmem_faultInstrValid (s : State) (a : Nat) (v : Int) : (s.setDmem a v).faultInstrValid = s.faultInstrValid := rfl
@[simp] theorem State.setDmem_params (s : State) (a : Nat) (v : Int) : (s.setDmem a v).params = s.params := rfl
@[simp] theorem State.setDmem_strict (s : State) (a : Nat) (v : Int) : (s.setDmem a v).strict = s.strict := rfl
@[simp] theorem State.setDmem_host (s : State) (a : Nat) (v : Int) : (s.setDmem a v).host = s.host := rfl
@[simp] theorem State.setDmem_inAnswers (s : State) (a : Nat) (v : Int) : (s.setDmem a v).inAnswers = s.inAnswers := rfl
@[simp] theorem State.setDmem_outAnswers (s : State) (a : Nat) (v : Int) : (s.setDmem a v).outAnswers = s.outAnswers := rfl
@[simp] theorem State.setDmem_trace (s : State) (a : Nat) (v : Int) : (s.setDmem a v).trace = s.trace := rfl

/-! ### `State.setImem` -/

@[simp] theorem State.setImem_acc (s : State) (a : Nat) (w : InstrWord) : (s.setImem a w).acc = s.acc := rfl
@[simp] theorem State.setImem_pc (s : State) (a : Nat) (w : InstrWord) : (s.setImem a w).pc = s.pc := rfl
@[simp] theorem State.setImem_runState (s : State) (a : Nat) (w : InstrWord) : (s.setImem a w).runState = s.runState := rfl
@[simp] theorem State.setImem_ir (s : State) (a : Nat) (w : InstrWord) : (s.setImem a w).ir = s.ir := rfl
@[simp] theorem State.setImem_dmem (s : State) (a : Nat) (w : InstrWord) : (s.setImem a w).dmem = s.dmem := rfl
@[simp] theorem State.setImem_imem (s : State) (a : Nat) (w : InstrWord) : (s.setImem a w).imem = Memory.write InstrWord.zero s.imem a w := rfl
@[simp] theorem State.setImem_loadPtr (s : State) (a : Nat) (w : InstrWord) : (s.setImem a w).loadPtr = s.loadPtr := rfl
@[simp] theorem State.setImem_exitStatus (s : State) (a : Nat) (w : InstrWord) : (s.setImem a w).exitStatus = s.exitStatus := rfl
@[simp] theorem State.setImem_faultKind (s : State) (a : Nat) (w : InstrWord) : (s.setImem a w).faultKind = s.faultKind := rfl
@[simp] theorem State.setImem_faultPc (s : State) (a : Nat) (w : InstrWord) : (s.setImem a w).faultPc = s.faultPc := rfl
@[simp] theorem State.setImem_faultInstr (s : State) (a : Nat) (w : InstrWord) : (s.setImem a w).faultInstr = s.faultInstr := rfl
@[simp] theorem State.setImem_faultInstrValid (s : State) (a : Nat) (w : InstrWord) : (s.setImem a w).faultInstrValid = s.faultInstrValid := rfl
@[simp] theorem State.setImem_params (s : State) (a : Nat) (w : InstrWord) : (s.setImem a w).params = s.params := rfl
@[simp] theorem State.setImem_strict (s : State) (a : Nat) (w : InstrWord) : (s.setImem a w).strict = s.strict := rfl
@[simp] theorem State.setImem_host (s : State) (a : Nat) (w : InstrWord) : (s.setImem a w).host = s.host := rfl
@[simp] theorem State.setImem_inAnswers (s : State) (a : Nat) (w : InstrWord) : (s.setImem a w).inAnswers = s.inAnswers := rfl
@[simp] theorem State.setImem_outAnswers (s : State) (a : Nat) (w : InstrWord) : (s.setImem a w).outAnswers = s.outAnswers := rfl
@[simp] theorem State.setImem_trace (s : State) (a : Nat) (w : InstrWord) : (s.setImem a w).trace = s.trace := rfl

/-! ### `State.advance` -/

@[simp] theorem State.advance_acc (s : State) (w : InstrWord) : (s.advance w).acc = s.acc := rfl
@[simp] theorem State.advance_pc (s : State) (w : InstrWord) : (s.advance w).pc = s.pc + 1 := rfl
@[simp] theorem State.advance_runState (s : State) (w : InstrWord) : (s.advance w).runState = s.runState := rfl
@[simp] theorem State.advance_ir (s : State) (w : InstrWord) : (s.advance w).ir = w := rfl
@[simp] theorem State.advance_dmem (s : State) (w : InstrWord) : (s.advance w).dmem = s.dmem := rfl
@[simp] theorem State.advance_imem (s : State) (w : InstrWord) : (s.advance w).imem = s.imem := rfl
@[simp] theorem State.advance_loadPtr (s : State) (w : InstrWord) : (s.advance w).loadPtr = s.loadPtr := rfl
@[simp] theorem State.advance_exitStatus (s : State) (w : InstrWord) : (s.advance w).exitStatus = s.exitStatus := rfl
@[simp] theorem State.advance_faultKind (s : State) (w : InstrWord) : (s.advance w).faultKind = s.faultKind := rfl
@[simp] theorem State.advance_faultPc (s : State) (w : InstrWord) : (s.advance w).faultPc = s.faultPc := rfl
@[simp] theorem State.advance_faultInstr (s : State) (w : InstrWord) : (s.advance w).faultInstr = s.faultInstr := rfl
@[simp] theorem State.advance_faultInstrValid (s : State) (w : InstrWord) : (s.advance w).faultInstrValid = s.faultInstrValid := rfl
@[simp] theorem State.advance_params (s : State) (w : InstrWord) : (s.advance w).params = s.params := rfl
@[simp] theorem State.advance_strict (s : State) (w : InstrWord) : (s.advance w).strict = s.strict := rfl
@[simp] theorem State.advance_host (s : State) (w : InstrWord) : (s.advance w).host = s.host := rfl
@[simp] theorem State.advance_inAnswers (s : State) (w : InstrWord) : (s.advance w).inAnswers = s.inAnswers := rfl
@[simp] theorem State.advance_outAnswers (s : State) (w : InstrWord) : (s.advance w).outAnswers = s.outAnswers := rfl
@[simp] theorem State.advance_trace (s : State) (w : InstrWord) : (s.advance w).trace = s.trace := rfl

/-! ### `State.emit` -/

@[simp] theorem State.emit_acc (s : State) (e : Event) : (s.emit e).acc = s.acc := rfl
@[simp] theorem State.emit_pc (s : State) (e : Event) : (s.emit e).pc = s.pc := rfl
@[simp] theorem State.emit_runState (s : State) (e : Event) : (s.emit e).runState = s.runState := rfl
@[simp] theorem State.emit_ir (s : State) (e : Event) : (s.emit e).ir = s.ir := rfl
@[simp] theorem State.emit_dmem (s : State) (e : Event) : (s.emit e).dmem = s.dmem := rfl
@[simp] theorem State.emit_imem (s : State) (e : Event) : (s.emit e).imem = s.imem := rfl
@[simp] theorem State.emit_loadPtr (s : State) (e : Event) : (s.emit e).loadPtr = s.loadPtr := rfl
@[simp] theorem State.emit_exitStatus (s : State) (e : Event) : (s.emit e).exitStatus = s.exitStatus := rfl
@[simp] theorem State.emit_faultKind (s : State) (e : Event) : (s.emit e).faultKind = s.faultKind := rfl
@[simp] theorem State.emit_faultPc (s : State) (e : Event) : (s.emit e).faultPc = s.faultPc := rfl
@[simp] theorem State.emit_faultInstr (s : State) (e : Event) : (s.emit e).faultInstr = s.faultInstr := rfl
@[simp] theorem State.emit_faultInstrValid (s : State) (e : Event) : (s.emit e).faultInstrValid = s.faultInstrValid := rfl
@[simp] theorem State.emit_params (s : State) (e : Event) : (s.emit e).params = s.params := rfl
@[simp] theorem State.emit_strict (s : State) (e : Event) : (s.emit e).strict = s.strict := rfl
@[simp] theorem State.emit_host (s : State) (e : Event) : (s.emit e).host = s.host := rfl
@[simp] theorem State.emit_inAnswers (s : State) (e : Event) : (s.emit e).inAnswers = s.inAnswers := rfl
@[simp] theorem State.emit_outAnswers (s : State) (e : Event) : (s.emit e).outAnswers = s.outAnswers := rfl
@[simp] theorem State.emit_trace (s : State) (e : Event) : (s.emit e).trace = s.trace ++ [e] := rfl

/-! ### `State.halt` -/

@[simp] theorem State.halt_acc (s : State) (a : Int) : (s.halt a).acc = s.acc := rfl
@[simp] theorem State.halt_pc (s : State) (a : Int) : (s.halt a).pc = s.pc := rfl
@[simp] theorem State.halt_runState (s : State) (a : Int) : (s.halt a).runState = .halted := rfl
@[simp] theorem State.halt_ir (s : State) (a : Int) : (s.halt a).ir = s.ir := rfl
@[simp] theorem State.halt_dmem (s : State) (a : Int) : (s.halt a).dmem = s.dmem := rfl
@[simp] theorem State.halt_imem (s : State) (a : Int) : (s.halt a).imem = s.imem := rfl
@[simp] theorem State.halt_loadPtr (s : State) (a : Int) : (s.halt a).loadPtr = s.loadPtr := rfl
@[simp] theorem State.halt_exitStatus (s : State) (a : Int) : (s.halt a).exitStatus = a := rfl
@[simp] theorem State.halt_faultKind (s : State) (a : Int) : (s.halt a).faultKind = s.faultKind := rfl
@[simp] theorem State.halt_faultPc (s : State) (a : Int) : (s.halt a).faultPc = s.faultPc := rfl
@[simp] theorem State.halt_faultInstr (s : State) (a : Int) : (s.halt a).faultInstr = s.faultInstr := rfl
@[simp] theorem State.halt_faultInstrValid (s : State) (a : Int) : (s.halt a).faultInstrValid = s.faultInstrValid := rfl
@[simp] theorem State.halt_params (s : State) (a : Int) : (s.halt a).params = s.params := rfl
@[simp] theorem State.halt_strict (s : State) (a : Int) : (s.halt a).strict = s.strict := rfl
@[simp] theorem State.halt_host (s : State) (a : Int) : (s.halt a).host = s.host := rfl
@[simp] theorem State.halt_inAnswers (s : State) (a : Int) : (s.halt a).inAnswers = s.inAnswers := rfl
@[simp] theorem State.halt_outAnswers (s : State) (a : Int) : (s.halt a).outAnswers = s.outAnswers := rfl
@[simp] theorem State.halt_trace (s : State) (a : Int) : (s.halt a).trace = s.trace := rfl

/-! ### `State.abort` -/

@[simp] theorem State.abort_acc (s : State) (k : FaultKind) (w : InstrWord) : (s.abort k w).acc = s.acc := rfl
@[simp] theorem State.abort_pc (s : State) (k : FaultKind) (w : InstrWord) : (s.abort k w).pc = s.pc + 1 := rfl
@[simp] theorem State.abort_runState (s : State) (k : FaultKind) (w : InstrWord) : (s.abort k w).runState = .faulted := rfl
@[simp] theorem State.abort_ir (s : State) (k : FaultKind) (w : InstrWord) : (s.abort k w).ir = w := rfl
@[simp] theorem State.abort_dmem (s : State) (k : FaultKind) (w : InstrWord) : (s.abort k w).dmem = s.dmem := rfl
@[simp] theorem State.abort_imem (s : State) (k : FaultKind) (w : InstrWord) : (s.abort k w).imem = s.imem := rfl
@[simp] theorem State.abort_loadPtr (s : State) (k : FaultKind) (w : InstrWord) : (s.abort k w).loadPtr = s.loadPtr := rfl
@[simp] theorem State.abort_exitStatus (s : State) (k : FaultKind) (w : InstrWord) : (s.abort k w).exitStatus = s.exitStatus := rfl
@[simp] theorem State.abort_faultKind (s : State) (k : FaultKind) (w : InstrWord) : (s.abort k w).faultKind = k := rfl
@[simp] theorem State.abort_faultPc (s : State) (k : FaultKind) (w : InstrWord) : (s.abort k w).faultPc = s.pc := rfl
@[simp] theorem State.abort_faultInstr (s : State) (k : FaultKind) (w : InstrWord) : (s.abort k w).faultInstr = w := rfl
@[simp] theorem State.abort_faultInstrValid (s : State) (k : FaultKind) (w : InstrWord) : (s.abort k w).faultInstrValid = true := rfl
@[simp] theorem State.abort_params (s : State) (k : FaultKind) (w : InstrWord) : (s.abort k w).params = s.params := rfl
@[simp] theorem State.abort_strict (s : State) (k : FaultKind) (w : InstrWord) : (s.abort k w).strict = s.strict := rfl
@[simp] theorem State.abort_host (s : State) (k : FaultKind) (w : InstrWord) : (s.abort k w).host = s.host := rfl
@[simp] theorem State.abort_inAnswers (s : State) (k : FaultKind) (w : InstrWord) : (s.abort k w).inAnswers = s.inAnswers := rfl
@[simp] theorem State.abort_outAnswers (s : State) (k : FaultKind) (w : InstrWord) : (s.abort k w).outAnswers = s.outAnswers := rfl
@[simp] theorem State.abort_trace (s : State) (k : FaultKind) (w : InstrWord) : (s.abort k w).trace = s.trace := rfl

/-! ### `State.setInAnswers` -/

@[simp] theorem State.setInAnswers_acc (s : State) (r : List InAnswer) : (s.setInAnswers r).acc = s.acc := rfl
@[simp] theorem State.setInAnswers_pc (s : State) (r : List InAnswer) : (s.setInAnswers r).pc = s.pc := rfl
@[simp] theorem State.setInAnswers_runState (s : State) (r : List InAnswer) : (s.setInAnswers r).runState = s.runState := rfl
@[simp] theorem State.setInAnswers_ir (s : State) (r : List InAnswer) : (s.setInAnswers r).ir = s.ir := rfl
@[simp] theorem State.setInAnswers_dmem (s : State) (r : List InAnswer) : (s.setInAnswers r).dmem = s.dmem := rfl
@[simp] theorem State.setInAnswers_imem (s : State) (r : List InAnswer) : (s.setInAnswers r).imem = s.imem := rfl
@[simp] theorem State.setInAnswers_loadPtr (s : State) (r : List InAnswer) : (s.setInAnswers r).loadPtr = s.loadPtr := rfl
@[simp] theorem State.setInAnswers_exitStatus (s : State) (r : List InAnswer) : (s.setInAnswers r).exitStatus = s.exitStatus := rfl
@[simp] theorem State.setInAnswers_faultKind (s : State) (r : List InAnswer) : (s.setInAnswers r).faultKind = s.faultKind := rfl
@[simp] theorem State.setInAnswers_faultPc (s : State) (r : List InAnswer) : (s.setInAnswers r).faultPc = s.faultPc := rfl
@[simp] theorem State.setInAnswers_faultInstr (s : State) (r : List InAnswer) : (s.setInAnswers r).faultInstr = s.faultInstr := rfl
@[simp] theorem State.setInAnswers_faultInstrValid (s : State) (r : List InAnswer) : (s.setInAnswers r).faultInstrValid = s.faultInstrValid := rfl
@[simp] theorem State.setInAnswers_params (s : State) (r : List InAnswer) : (s.setInAnswers r).params = s.params := rfl
@[simp] theorem State.setInAnswers_strict (s : State) (r : List InAnswer) : (s.setInAnswers r).strict = s.strict := rfl
@[simp] theorem State.setInAnswers_host (s : State) (r : List InAnswer) : (s.setInAnswers r).host = s.host := rfl
@[simp] theorem State.setInAnswers_inAnswers (s : State) (r : List InAnswer) : (s.setInAnswers r).inAnswers = r := rfl
@[simp] theorem State.setInAnswers_outAnswers (s : State) (r : List InAnswer) : (s.setInAnswers r).outAnswers = s.outAnswers := rfl
@[simp] theorem State.setInAnswers_trace (s : State) (r : List InAnswer) : (s.setInAnswers r).trace = s.trace := rfl

/-! ### `State.dropOutAnswer` -/

@[simp] theorem State.dropOutAnswer_acc (s : State) : s.dropOutAnswer.acc = s.acc := rfl
@[simp] theorem State.dropOutAnswer_pc (s : State) : s.dropOutAnswer.pc = s.pc := rfl
@[simp] theorem State.dropOutAnswer_runState (s : State) : s.dropOutAnswer.runState = s.runState := rfl
@[simp] theorem State.dropOutAnswer_ir (s : State) : s.dropOutAnswer.ir = s.ir := rfl
@[simp] theorem State.dropOutAnswer_dmem (s : State) : s.dropOutAnswer.dmem = s.dmem := rfl
@[simp] theorem State.dropOutAnswer_imem (s : State) : s.dropOutAnswer.imem = s.imem := rfl
@[simp] theorem State.dropOutAnswer_loadPtr (s : State) : s.dropOutAnswer.loadPtr = s.loadPtr := rfl
@[simp] theorem State.dropOutAnswer_exitStatus (s : State) : s.dropOutAnswer.exitStatus = s.exitStatus := rfl
@[simp] theorem State.dropOutAnswer_faultKind (s : State) : s.dropOutAnswer.faultKind = s.faultKind := rfl
@[simp] theorem State.dropOutAnswer_faultPc (s : State) : s.dropOutAnswer.faultPc = s.faultPc := rfl
@[simp] theorem State.dropOutAnswer_faultInstr (s : State) : s.dropOutAnswer.faultInstr = s.faultInstr := rfl
@[simp] theorem State.dropOutAnswer_faultInstrValid (s : State) : s.dropOutAnswer.faultInstrValid = s.faultInstrValid := rfl
@[simp] theorem State.dropOutAnswer_params (s : State) : s.dropOutAnswer.params = s.params := rfl
@[simp] theorem State.dropOutAnswer_strict (s : State) : s.dropOutAnswer.strict = s.strict := rfl
@[simp] theorem State.dropOutAnswer_host (s : State) : s.dropOutAnswer.host = s.host := rfl
@[simp] theorem State.dropOutAnswer_inAnswers (s : State) : s.dropOutAnswer.inAnswers = s.inAnswers := rfl
@[simp] theorem State.dropOutAnswer_outAnswers (s : State) : s.dropOutAnswer.outAnswers = s.outAnswers.tail := rfl
@[simp] theorem State.dropOutAnswer_trace (s : State) : s.dropOutAnswer.trace = s.trace := rfl

/-! ### `State.resetCore` -/

@[simp] theorem State.resetCore_acc (s : State) : s.resetCore.acc = 0 := rfl
@[simp] theorem State.resetCore_pc (s : State) : s.resetCore.pc = 0 := rfl
@[simp] theorem State.resetCore_runState (s : State) : s.resetCore.runState = .idle := rfl
@[simp] theorem State.resetCore_ir (s : State) : s.resetCore.ir = InstrWord.zero := rfl
@[simp] theorem State.resetCore_dmem (s : State) : s.resetCore.dmem = [] := rfl
@[simp] theorem State.resetCore_imem (s : State) : s.resetCore.imem = [] := rfl
@[simp] theorem State.resetCore_loadPtr (s : State) : s.resetCore.loadPtr = 0 := rfl
@[simp] theorem State.resetCore_exitStatus (s : State) : s.resetCore.exitStatus = 0 := rfl
@[simp] theorem State.resetCore_faultKind (s : State) : s.resetCore.faultKind = .none := rfl
@[simp] theorem State.resetCore_faultPc (s : State) : s.resetCore.faultPc = 0 := rfl
@[simp] theorem State.resetCore_faultInstr (s : State) : s.resetCore.faultInstr = InstrWord.zero := rfl
@[simp] theorem State.resetCore_faultInstrValid (s : State) : s.resetCore.faultInstrValid = false := rfl
@[simp] theorem State.resetCore_params (s : State) : s.resetCore.params = s.params := rfl
@[simp] theorem State.resetCore_strict (s : State) : s.resetCore.strict = s.strict := rfl
@[simp] theorem State.resetCore_host (s : State) : s.resetCore.host = s.host := rfl
@[simp] theorem State.resetCore_inAnswers (s : State) : s.resetCore.inAnswers = s.inAnswers := rfl
@[simp] theorem State.resetCore_outAnswers (s : State) : s.resetCore.outAnswers = s.outAnswers := rfl
@[simp] theorem State.resetCore_trace (s : State) : s.resetCore.trace = s.trace := rfl

/-! ### `State.setRunState` -/

@[simp] theorem State.setRunState_acc (s : State) (r : RunState) : (s.setRunState r).acc = s.acc := rfl
@[simp] theorem State.setRunState_pc (s : State) (r : RunState) : (s.setRunState r).pc = s.pc := rfl
@[simp] theorem State.setRunState_runState (s : State) (r : RunState) : (s.setRunState r).runState = r := rfl
@[simp] theorem State.setRunState_ir (s : State) (r : RunState) : (s.setRunState r).ir = s.ir := rfl
@[simp] theorem State.setRunState_dmem (s : State) (r : RunState) : (s.setRunState r).dmem = s.dmem := rfl
@[simp] theorem State.setRunState_imem (s : State) (r : RunState) : (s.setRunState r).imem = s.imem := rfl
@[simp] theorem State.setRunState_loadPtr (s : State) (r : RunState) : (s.setRunState r).loadPtr = s.loadPtr := rfl
@[simp] theorem State.setRunState_exitStatus (s : State) (r : RunState) : (s.setRunState r).exitStatus = s.exitStatus := rfl
@[simp] theorem State.setRunState_faultKind (s : State) (r : RunState) : (s.setRunState r).faultKind = s.faultKind := rfl
@[simp] theorem State.setRunState_faultPc (s : State) (r : RunState) : (s.setRunState r).faultPc = s.faultPc := rfl
@[simp] theorem State.setRunState_faultInstr (s : State) (r : RunState) : (s.setRunState r).faultInstr = s.faultInstr := rfl
@[simp] theorem State.setRunState_faultInstrValid (s : State) (r : RunState) : (s.setRunState r).faultInstrValid = s.faultInstrValid := rfl
@[simp] theorem State.setRunState_params (s : State) (r : RunState) : (s.setRunState r).params = s.params := rfl
@[simp] theorem State.setRunState_strict (s : State) (r : RunState) : (s.setRunState r).strict = s.strict := rfl
@[simp] theorem State.setRunState_host (s : State) (r : RunState) : (s.setRunState r).host = s.host := rfl
@[simp] theorem State.setRunState_inAnswers (s : State) (r : RunState) : (s.setRunState r).inAnswers = s.inAnswers := rfl
@[simp] theorem State.setRunState_outAnswers (s : State) (r : RunState) : (s.setRunState r).outAnswers = s.outAnswers := rfl
@[simp] theorem State.setRunState_trace (s : State) (r : RunState) : (s.setRunState r).trace = s.trace := rfl

/-! ### `State.setLoadPtr` -/

@[simp] theorem State.setLoadPtr_acc (s : State) (p : Nat) : (s.setLoadPtr p).acc = s.acc := rfl
@[simp] theorem State.setLoadPtr_pc (s : State) (p : Nat) : (s.setLoadPtr p).pc = s.pc := rfl
@[simp] theorem State.setLoadPtr_runState (s : State) (p : Nat) : (s.setLoadPtr p).runState = s.runState := rfl
@[simp] theorem State.setLoadPtr_ir (s : State) (p : Nat) : (s.setLoadPtr p).ir = s.ir := rfl
@[simp] theorem State.setLoadPtr_dmem (s : State) (p : Nat) : (s.setLoadPtr p).dmem = s.dmem := rfl
@[simp] theorem State.setLoadPtr_imem (s : State) (p : Nat) : (s.setLoadPtr p).imem = s.imem := rfl
@[simp] theorem State.setLoadPtr_loadPtr (s : State) (p : Nat) : (s.setLoadPtr p).loadPtr = p := rfl
@[simp] theorem State.setLoadPtr_exitStatus (s : State) (p : Nat) : (s.setLoadPtr p).exitStatus = s.exitStatus := rfl
@[simp] theorem State.setLoadPtr_faultKind (s : State) (p : Nat) : (s.setLoadPtr p).faultKind = s.faultKind := rfl
@[simp] theorem State.setLoadPtr_faultPc (s : State) (p : Nat) : (s.setLoadPtr p).faultPc = s.faultPc := rfl
@[simp] theorem State.setLoadPtr_faultInstr (s : State) (p : Nat) : (s.setLoadPtr p).faultInstr = s.faultInstr := rfl
@[simp] theorem State.setLoadPtr_faultInstrValid (s : State) (p : Nat) : (s.setLoadPtr p).faultInstrValid = s.faultInstrValid := rfl
@[simp] theorem State.setLoadPtr_params (s : State) (p : Nat) : (s.setLoadPtr p).params = s.params := rfl
@[simp] theorem State.setLoadPtr_strict (s : State) (p : Nat) : (s.setLoadPtr p).strict = s.strict := rfl
@[simp] theorem State.setLoadPtr_host (s : State) (p : Nat) : (s.setLoadPtr p).host = s.host := rfl
@[simp] theorem State.setLoadPtr_inAnswers (s : State) (p : Nat) : (s.setLoadPtr p).inAnswers = s.inAnswers := rfl
@[simp] theorem State.setLoadPtr_outAnswers (s : State) (p : Nat) : (s.setLoadPtr p).outAnswers = s.outAnswers := rfl
@[simp] theorem State.setLoadPtr_trace (s : State) (p : Nat) : (s.setLoadPtr p).trace = s.trace := rfl

/-! ### `State.setStrict` -/

@[simp] theorem State.setStrict_acc (s : State) (b : Bool) : (s.setStrict b).acc = s.acc := rfl
@[simp] theorem State.setStrict_pc (s : State) (b : Bool) : (s.setStrict b).pc = s.pc := rfl
@[simp] theorem State.setStrict_runState (s : State) (b : Bool) : (s.setStrict b).runState = s.runState := rfl
@[simp] theorem State.setStrict_ir (s : State) (b : Bool) : (s.setStrict b).ir = s.ir := rfl
@[simp] theorem State.setStrict_dmem (s : State) (b : Bool) : (s.setStrict b).dmem = s.dmem := rfl
@[simp] theorem State.setStrict_imem (s : State) (b : Bool) : (s.setStrict b).imem = s.imem := rfl
@[simp] theorem State.setStrict_loadPtr (s : State) (b : Bool) : (s.setStrict b).loadPtr = s.loadPtr := rfl
@[simp] theorem State.setStrict_exitStatus (s : State) (b : Bool) : (s.setStrict b).exitStatus = s.exitStatus := rfl
@[simp] theorem State.setStrict_faultKind (s : State) (b : Bool) : (s.setStrict b).faultKind = s.faultKind := rfl
@[simp] theorem State.setStrict_faultPc (s : State) (b : Bool) : (s.setStrict b).faultPc = s.faultPc := rfl
@[simp] theorem State.setStrict_faultInstr (s : State) (b : Bool) : (s.setStrict b).faultInstr = s.faultInstr := rfl
@[simp] theorem State.setStrict_faultInstrValid (s : State) (b : Bool) : (s.setStrict b).faultInstrValid = s.faultInstrValid := rfl
@[simp] theorem State.setStrict_params (s : State) (b : Bool) : (s.setStrict b).params = s.params := rfl
@[simp] theorem State.setStrict_strict (s : State) (b : Bool) : (s.setStrict b).strict = b := rfl
@[simp] theorem State.setStrict_host (s : State) (b : Bool) : (s.setStrict b).host = s.host := rfl
@[simp] theorem State.setStrict_inAnswers (s : State) (b : Bool) : (s.setStrict b).inAnswers = s.inAnswers := rfl
@[simp] theorem State.setStrict_outAnswers (s : State) (b : Bool) : (s.setStrict b).outAnswers = s.outAnswers := rfl
@[simp] theorem State.setStrict_trace (s : State) (b : Bool) : (s.setStrict b).trace = s.trace := rfl

/-! ### `State.takeAction` -/

@[simp] theorem State.takeAction_acc (s : State) : s.takeAction.acc = s.acc := rfl
@[simp] theorem State.takeAction_pc (s : State) : s.takeAction.pc = s.pc := rfl
@[simp] theorem State.takeAction_runState (s : State) : s.takeAction.runState = s.runState := rfl
@[simp] theorem State.takeAction_ir (s : State) : s.takeAction.ir = s.ir := rfl
@[simp] theorem State.takeAction_dmem (s : State) : s.takeAction.dmem = s.dmem := rfl
@[simp] theorem State.takeAction_imem (s : State) : s.takeAction.imem = s.imem := rfl
@[simp] theorem State.takeAction_loadPtr (s : State) : s.takeAction.loadPtr = s.loadPtr := rfl
@[simp] theorem State.takeAction_exitStatus (s : State) : s.takeAction.exitStatus = s.exitStatus := rfl
@[simp] theorem State.takeAction_faultKind (s : State) : s.takeAction.faultKind = s.faultKind := rfl
@[simp] theorem State.takeAction_faultPc (s : State) : s.takeAction.faultPc = s.faultPc := rfl
@[simp] theorem State.takeAction_faultInstr (s : State) : s.takeAction.faultInstr = s.faultInstr := rfl
@[simp] theorem State.takeAction_faultInstrValid (s : State) : s.takeAction.faultInstrValid = s.faultInstrValid := rfl
@[simp] theorem State.takeAction_params (s : State) : s.takeAction.params = s.params := rfl
@[simp] theorem State.takeAction_strict (s : State) : s.takeAction.strict = s.strict := rfl
@[simp] theorem State.takeAction_host (s : State) : s.takeAction.host = s.host.tail := rfl
@[simp] theorem State.takeAction_inAnswers (s : State) : s.takeAction.inAnswers = s.inAnswers := rfl
@[simp] theorem State.takeAction_outAnswers (s : State) : s.takeAction.outAnswers = s.outAnswers := rfl
@[simp] theorem State.takeAction_trace (s : State) : s.takeAction.trace = s.trace := rfl

/-! ### `State.setOutAnswers` -/

@[simp] theorem State.setOutAnswers_acc (s : State) (r : List OutAnswer) : (s.setOutAnswers r).acc = s.acc := rfl
@[simp] theorem State.setOutAnswers_pc (s : State) (r : List OutAnswer) : (s.setOutAnswers r).pc = s.pc := rfl
@[simp] theorem State.setOutAnswers_runState (s : State) (r : List OutAnswer) : (s.setOutAnswers r).runState = s.runState := rfl
@[simp] theorem State.setOutAnswers_ir (s : State) (r : List OutAnswer) : (s.setOutAnswers r).ir = s.ir := rfl
@[simp] theorem State.setOutAnswers_dmem (s : State) (r : List OutAnswer) : (s.setOutAnswers r).dmem = s.dmem := rfl
@[simp] theorem State.setOutAnswers_imem (s : State) (r : List OutAnswer) : (s.setOutAnswers r).imem = s.imem := rfl
@[simp] theorem State.setOutAnswers_loadPtr (s : State) (r : List OutAnswer) : (s.setOutAnswers r).loadPtr = s.loadPtr := rfl
@[simp] theorem State.setOutAnswers_exitStatus (s : State) (r : List OutAnswer) : (s.setOutAnswers r).exitStatus = s.exitStatus := rfl
@[simp] theorem State.setOutAnswers_faultKind (s : State) (r : List OutAnswer) : (s.setOutAnswers r).faultKind = s.faultKind := rfl
@[simp] theorem State.setOutAnswers_faultPc (s : State) (r : List OutAnswer) : (s.setOutAnswers r).faultPc = s.faultPc := rfl
@[simp] theorem State.setOutAnswers_faultInstr (s : State) (r : List OutAnswer) : (s.setOutAnswers r).faultInstr = s.faultInstr := rfl
@[simp] theorem State.setOutAnswers_faultInstrValid (s : State) (r : List OutAnswer) : (s.setOutAnswers r).faultInstrValid = s.faultInstrValid := rfl
@[simp] theorem State.setOutAnswers_params (s : State) (r : List OutAnswer) : (s.setOutAnswers r).params = s.params := rfl
@[simp] theorem State.setOutAnswers_strict (s : State) (r : List OutAnswer) : (s.setOutAnswers r).strict = s.strict := rfl
@[simp] theorem State.setOutAnswers_host (s : State) (r : List OutAnswer) : (s.setOutAnswers r).host = s.host := rfl
@[simp] theorem State.setOutAnswers_inAnswers (s : State) (r : List OutAnswer) : (s.setOutAnswers r).inAnswers = s.inAnswers := rfl
@[simp] theorem State.setOutAnswers_outAnswers (s : State) (r : List OutAnswer) : (s.setOutAnswers r).outAnswers = r := rfl
@[simp] theorem State.setOutAnswers_trace (s : State) (r : List OutAnswer) : (s.setOutAnswers r).trace = s.trace := rfl

/-- Taking the host's action off leaves every word of Data Memory. -/
@[simp] theorem State.takeAction_dmemAt (s : State) (a : Nat) : s.takeAction.dmemAt a = s.dmemAt a := rfl
/-- Taking the host's action off leaves every word of Instruction Memory. -/
@[simp] theorem State.takeAction_imemAt (s : State) (a : Nat) : s.takeAction.imemAt a = s.imemAt a := rfl

/-! ### `State.raise` -/

@[simp] theorem State.raise_acc (s : State) (k : FaultKind) (src : FaultSource) : (s.raise k src).acc = s.acc := by cases src <;> rfl
@[simp] theorem State.raise_pc (s : State) (k : FaultKind) (src : FaultSource) : (s.raise k src).pc = s.pc := by cases src <;> rfl
@[simp] theorem State.raise_runState (s : State) (k : FaultKind) (src : FaultSource) : (s.raise k src).runState = .faulted := by cases src <;> rfl
@[simp] theorem State.raise_ir (s : State) (k : FaultKind) (src : FaultSource) : (s.raise k src).ir = s.ir := by cases src <;> rfl
@[simp] theorem State.raise_dmem (s : State) (k : FaultKind) (src : FaultSource) : (s.raise k src).dmem = s.dmem := by cases src <;> rfl
@[simp] theorem State.raise_imem (s : State) (k : FaultKind) (src : FaultSource) : (s.raise k src).imem = s.imem := by cases src <;> rfl
@[simp] theorem State.raise_loadPtr (s : State) (k : FaultKind) (src : FaultSource) : (s.raise k src).loadPtr = s.loadPtr := by cases src <;> rfl
@[simp] theorem State.raise_exitStatus (s : State) (k : FaultKind) (src : FaultSource) : (s.raise k src).exitStatus = s.exitStatus := by cases src <;> rfl
@[simp] theorem State.raise_faultKind (s : State) (k : FaultKind) (src : FaultSource) : (s.raise k src).faultKind = k := by cases src <;> rfl
@[simp] theorem State.raise_start_faultPc (s : State) (k : FaultKind) : (s.raise k .start).faultPc = 0 := rfl
@[simp] theorem State.raise_fetch_faultPc (s : State) (k : FaultKind) : (s.raise k .fetch).faultPc = s.pc := rfl
@[simp] theorem State.raise_execute_faultPc (s : State) (k : FaultKind) (fpc : Nat) : (s.raise k (.execute fpc)).faultPc = fpc := rfl
@[simp] theorem State.raise_start_faultInstr (s : State) (k : FaultKind) : (s.raise k .start).faultInstr = s.faultInstr := rfl
@[simp] theorem State.raise_fetch_faultInstr (s : State) (k : FaultKind) : (s.raise k .fetch).faultInstr = s.faultInstr := rfl
@[simp] theorem State.raise_execute_faultInstr (s : State) (k : FaultKind) (fpc : Nat) : (s.raise k (.execute fpc)).faultInstr = s.ir := rfl
@[simp] theorem State.raise_start_faultInstrValid (s : State) (k : FaultKind) : (s.raise k .start).faultInstrValid = false := rfl
@[simp] theorem State.raise_fetch_faultInstrValid (s : State) (k : FaultKind) : (s.raise k .fetch).faultInstrValid = false := rfl
@[simp] theorem State.raise_execute_faultInstrValid (s : State) (k : FaultKind) (fpc : Nat) : (s.raise k (.execute fpc)).faultInstrValid = true := rfl
@[simp] theorem State.raise_params (s : State) (k : FaultKind) (src : FaultSource) : (s.raise k src).params = s.params := by cases src <;> rfl
@[simp] theorem State.raise_strict (s : State) (k : FaultKind) (src : FaultSource) : (s.raise k src).strict = s.strict := by cases src <;> rfl
@[simp] theorem State.raise_host (s : State) (k : FaultKind) (src : FaultSource) : (s.raise k src).host = s.host := by cases src <;> rfl
@[simp] theorem State.raise_inAnswers (s : State) (k : FaultKind) (src : FaultSource) : (s.raise k src).inAnswers = s.inAnswers := by cases src <;> rfl
@[simp] theorem State.raise_outAnswers (s : State) (k : FaultKind) (src : FaultSource) : (s.raise k src).outAnswers = s.outAnswers := by cases src <;> rfl
@[simp] theorem State.raise_trace (s : State) (k : FaultKind) (src : FaultSource) : (s.raise k src).trace = s.trace := by cases src <;> rfl

end Sys2Proof.Machine
end

