-- ==== Sys2Proof/Laws/Memory.lean ====
section
/-! SUPPORT. The laws of a memory bank: what a read returns after an erase, an insert and a write, and that every operation
keeps the canonical form. -/

namespace Sys2Proof.Machine

variable {α : Type}

theorem Memory.read_erase_same (zero : α) (m : List (Nat × α)) (a : Nat) : Memory.read zero (Memory.erase m a) a = zero := by
  induction m with
  | nil => rfl
  | cons c rest ih =>
    by_cases h : c.1 = a
    · simp [Memory.erase, h, ih]
    · simp [Memory.erase, Memory.read, h, ih]

theorem Memory.read_erase_other (zero : α) (m : List (Nat × α)) {a b : Nat} (h : b ≠ a) :
    Memory.read zero (Memory.erase m a) b = Memory.read zero m b := by
  induction m with
  | nil => rfl
  | cons c rest ih =>
    by_cases hc : c.1 = a
    · have : c.1 ≠ b := fun e => h (e ▸ hc)
      simp [Memory.erase, Memory.read, hc, ih, Ne.symm h]
    · simp [Memory.erase, Memory.read, hc, ih]

/-- No entry of an erased bank is for the erased index. -/
theorem Memory.mem_erase {m : List (Nat × α)} {a : Nat} {c : Nat × α} (h : c ∈ Memory.erase m a) : c ∈ m ∧ c.1 ≠ a := by
  induction m with
  | nil => simp [Memory.erase] at h
  | cons d rest ih =>
    by_cases hd : d.1 = a
    · simp only [Memory.erase, hd, if_true] at h
      exact ⟨List.mem_cons_of_mem _ (ih h).1, (ih h).2⟩
    · simp only [Memory.erase, hd, if_false, List.mem_cons] at h
      rcases h with rfl | h
      · exact ⟨List.mem_cons_self, hd⟩
      · exact ⟨List.mem_cons_of_mem _ (ih h).1, (ih h).2⟩

theorem Memory.mem_insert {m : List (Nat × α)} {a : Nat} {v : α} {c : Nat × α} (h : c ∈ Memory.insert m a v) :
    c = (a, v) ∨ c ∈ m := by
  induction m with
  | nil => simpa [Memory.insert] using h
  | cons d rest ih =>
    by_cases hd : a < d.1
    · simpa [Memory.insert, hd] using h
    · simp only [Memory.insert, hd, if_false, List.mem_cons] at h
      rcases h with rfl | h
      · exact .inr List.mem_cons_self
      · exact (ih h).imp id (List.mem_cons_of_mem _)

theorem Memory.read_insert_same (zero : α) {m : List (Nat × α)} {a : Nat} (v : α) (h : ∀ c ∈ m, c.1 ≠ a) :
    Memory.read zero (Memory.insert m a v) a = v := by
  induction m with
  | nil => simp [Memory.insert, Memory.read]
  | cons d rest ih =>
    have hd : d.1 ≠ a := h d List.mem_cons_self
    by_cases hl : a < d.1
    · simp [Memory.insert, Memory.read, hl]
    · simp [Memory.insert, Memory.read, hl, hd, ih (fun c hc => h c (List.mem_cons_of_mem _ hc))]

theorem Memory.read_insert_other (zero : α) (m : List (Nat × α)) {a b : Nat} (v : α) (h : b ≠ a) :
    Memory.read zero (Memory.insert m a v) b = Memory.read zero m b := by
  induction m with
  | nil => simp [Memory.insert, Memory.read, Ne.symm h]
  | cons d rest ih =>
    by_cases hl : a < d.1
    · simp [Memory.insert, Memory.read, hl, Ne.symm h]
    · simp [Memory.insert, Memory.read, hl, ih]

/-- A read after a write to the same index gives the value written. -/
@[simp] theorem Memory.read_write_same [DecidableEq α] (zero : α) (m : List (Nat × α)) (a : Nat) (v : α) :
    Memory.read zero (Memory.write zero m a v) a = v := by
  unfold Memory.write
  split
  · next h => rw [Memory.read_erase_same, h]
  · exact Memory.read_insert_same zero v fun c hc => (Memory.mem_erase hc).2

/-- A write leaves every other index alone. -/
theorem Memory.read_write_other [DecidableEq α] (zero : α) (m : List (Nat × α)) {a b : Nat} (v : α) (h : b ≠ a) :
    Memory.read zero (Memory.write zero m a v) b = Memory.read zero m b := by
  unfold Memory.write
  split
  · exact Memory.read_erase_other zero m h
  · rw [Memory.read_insert_other zero _ v h, Memory.read_erase_other zero m h]

/-- Where a write puts entries: the index written, or an index that had one. -/
theorem Memory.mem_write [DecidableEq α] {zero : α} {m : List (Nat × α)} {a : Nat} {v : α} {c : Nat × α}
    (h : c ∈ Memory.write zero m a v) : c = (a, v) ∨ c ∈ m := by
  unfold Memory.write at h
  split at h
  · exact .inr (Memory.mem_erase h).1
  · exact (Memory.mem_insert h).imp id fun h => (Memory.mem_erase h).1

/-! ### The canonical form -/

/-- The canonical form of a bank that is not empty, part by part. -/
theorem Memory.wf_cons [DecidableEq α] {zero : α} {cap : Nat} {c : Nat × α} {m : List (Nat × α)} :
    Memory.wf zero cap (c :: m) = true ↔
      c.1 < cap ∧ c.2 ≠ zero ∧ (∀ d ∈ m, c.1 < d.1) ∧ Memory.wf zero cap m = true := by
  simp [Memory.wf, List.all_eq_true, and_assoc]

theorem Memory.erase_wf [DecidableEq α] {zero : α} {cap : Nat} {m : List (Nat × α)} (a : Nat)
    (h : Memory.wf zero cap m = true) : Memory.wf zero cap (Memory.erase m a) = true := by
  induction m with
  | nil => rfl
  | cons c rest ih =>
    obtain ⟨hc, hv, ho, hr⟩ := Memory.wf_cons.1 h
    by_cases hca : c.1 = a
    · simpa [Memory.erase, hca] using ih hr
    · simp only [Memory.erase, hca, if_false]
      exact Memory.wf_cons.2 ⟨hc, hv, fun d hd => ho d (Memory.mem_erase hd).1, ih hr⟩

theorem Memory.insert_wf [DecidableEq α] {zero : α} {cap : Nat} {m : List (Nat × α)} {a : Nat} {v : α}
    (h : Memory.wf zero cap m = true) (ha : a < cap) (hv : v ≠ zero) (hm : ∀ c ∈ m, c.1 ≠ a) :
    Memory.wf zero cap (Memory.insert m a v) = true := by
  induction m with
  | nil => simp [Memory.insert, Memory.wf, ha, hv]
  | cons d rest ih =>
    obtain ⟨hd, hw, ho, hr⟩ := Memory.wf_cons.1 h
    by_cases hl : a < d.1
    · simp only [Memory.insert, hl, if_true]
      refine Memory.wf_cons.2 ⟨ha, hv, fun c hc => ?_, h⟩
      rcases List.mem_cons.1 hc with rfl | hc
      · exact hl
      · exact lt_trans hl (ho c hc)
    · have hlt : d.1 < a := lt_of_le_of_ne (not_lt.1 hl) (hm d List.mem_cons_self)
      simp only [Memory.insert, hl, if_false]
      refine Memory.wf_cons.2 ⟨hd, hw, fun c hc => ?_, ih hr fun c hc => hm c (List.mem_cons_of_mem _ hc)⟩
      rcases Memory.mem_insert hc with rfl | hc
      · exact hlt
      · exact ho c hc

/-- A write inside the bank keeps the canonical form. -/
theorem Memory.write_wf [DecidableEq α] {zero : α} {cap : Nat} {m : List (Nat × α)} {a : Nat} (v : α)
    (h : Memory.wf zero cap m = true) (ha : a < cap) : Memory.wf zero cap (Memory.write zero m a v) = true := by
  unfold Memory.write
  split
  · exact Memory.erase_wf a h
  · next hv => exact Memory.insert_wf (Memory.erase_wf a h) ha hv fun c hc => (Memory.mem_erase hc).2

/-- The reset state's banks are in canonical form. -/
theorem State.reset_banks_wf :
    Memory.wf 0 State.reset.params.dataCapacity State.reset.dmem = true ∧
      Memory.wf InstrWord.zero State.reset.params.programCapacity State.reset.imem = true := ⟨rfl, rfl⟩

/-- An index the capacity does not reach is not listed, so it reads the reset content. -/
theorem Memory.read_beyond [DecidableEq α] {zero : α} {cap : Nat} {m : List (Nat × α)} {a : Nat}
    (h : Memory.wf zero cap m = true) (ha : cap ≤ a) : Memory.read zero m a = zero := by
  induction m with
  | nil => rfl
  | cons c rest ih =>
    obtain ⟨hc, -, -, hr⟩ := Memory.wf_cons.1 h
    have : c.1 ≠ a := by omega
    simp [Memory.read, this, ih hr]

/-- An index no entry is for reads the reset content. -/
theorem Memory.read_unlisted {zero : α} {m : List (Nat × α)} {a : Nat} (h : ∀ c ∈ m, c.1 ≠ a) :
    Memory.read zero m a = zero := by
  induction m with
  | nil => rfl
  | cons c rest ih =>
    have hc : c.1 ≠ a := h c List.mem_cons_self
    simp [Memory.read, hc, ih fun d hd => h d (List.mem_cons_of_mem _ hd)]

/-- A read has a property that the reset content and every listed word have. -/
theorem Memory.read_all {P : α → Prop} {zero : α} {m : List (Nat × α)} (hz : P zero) (h : ∀ c ∈ m, P c.2) (a : Nat) :
    P (Memory.read zero m a) := by
  induction m with
  | nil => exact hz
  | cons c rest ih =>
    unfold Memory.read
    split
    · exact h c List.mem_cons_self
    · exact ih fun d hd => h d (List.mem_cons_of_mem _ hd)

end Sys2Proof.Machine
end

