-- ==== Sys2Proof/Laws/Word.lean ====
section
/-! SUPPORT. The arithmetic of words at a width `W`: the range of a word, `wrap_W`, and the bits of an instruction word. -/

namespace Sys2Proof

theorem Word.half_pos (width : Nat) : 0 < Word.half width := Nat.pow_pos (by decide)

theorem Word.modulus_pos (width : Nat) : 0 < Word.modulus width := Nat.pow_pos (by decide)

/-- `2^W` is twice `2^(W-1)`. -/
theorem Word.modulus_eq {width : Nat} (h : 1 ≤ width) : Word.modulus width = 2 * Word.half width := by
  obtain ⟨k, rfl⟩ : ∃ k, width = k + 1 := ⟨width - 1, by omega⟩
  simp only [Word.modulus, Word.half, Nat.add_sub_cancel, Nat.pow_succ]
  omega

theorem Word.fits_iff {width : Nat} {z : Int} :
    Word.fits width z = true ↔ -(Word.half width : Int) ≤ z ∧ z < Word.half width := by
  unfold Word.fits
  rw [Bool.and_eq_true, decide_eq_true_iff, decide_eq_true_iff]
  unfold Word.minSigned Word.maxSigned
  omega

theorem Word.fits_zero (width : Nat) : Word.fits width 0 = true := by
  have := Word.half_pos width
  exact Word.fits_iff.2 (by omega)

/-- A narrowed result is a word. -/
theorem Word.wrap_fits {width : Nat} (h : 1 ≤ width) (z : Int) : Word.fits width (Word.wrap width z) = true := by
  have hm := Word.modulus_eq h
  have lo := Int.le_bmod (x := z) (Word.modulus_pos width)
  have hi := Int.bmod_lt (x := z) (Word.modulus_pos width)
  exact Word.fits_iff.2 (by unfold Word.wrap; omega)

/-- Narrowing keeps a word as it is: "`s(wrap_W(z)) = z` exactly when `-2^(W-1) <= z <= 2^(W-1) - 1`" (R10). -/
theorem Word.wrap_of_fits {width : Nat} (h : 1 ≤ width) {z : Int} (hz : Word.fits width z = true) : Word.wrap width z = z := by
  have hm := Word.modulus_eq h
  obtain ⟨lo, hi⟩ := Word.fits_iff.1 hz
  exact Int.bmod_eq_of_le (by omega) (by omega)

/-- Narrowing twice is narrowing once, also under a sum. -/
theorem Word.wrap_wrap_sub (width : Nat) (x y : Int) : Word.wrap width (Word.wrap width x - y) = Word.wrap width (x - y) :=
  Int.bmod_sub_bmod

/-- Narrowing changes a number by a multiple of `2^W`. -/
theorem Word.wrap_dvd (width : Nat) (z : Int) : (Word.modulus width : Int) ∣ z - Word.wrap width z :=
  Int.dvd_of_emod_eq_zero (Int.emod_eq_emod_iff_emod_sub_eq_zero.1 Int.bmod_emod.symm)

theorem Word.wrap_sub_modulus (width : Nat) (z : Int) : Word.wrap width (z - Word.modulus width) = Word.wrap width z :=
  Int.sub_bmod_right z _

theorem Word.wrap_add_modulus (width : Nat) (z : Int) : Word.wrap width (z + Word.modulus width) = Word.wrap width z :=
  Int.add_bmod_right z _

/-- `W >= 8`, and the capacities are at least 1 and below `2^(W-1)`. -/
theorem Params.wellFormed_iff {p : Params} :
    p.wellFormed = true ↔
      8 ≤ p.width ∧ 1 ≤ p.dataCapacity ∧ p.dataCapacity < Word.half p.width ∧
        1 ≤ p.programCapacity ∧ p.programCapacity < Word.half p.width := by
  unfold Params.wellFormed
  simp only [Bool.and_eq_true, decide_eq_true_iff]
  unfold Word.maxSigned
  omega

theorem InstrWord.fits_iff {width : Nat} {w : InstrWord} :
    w.fits width = true ↔ Word.fits width w.opcode = true ∧ Word.fits width w.operand = true := by
  simp only [InstrWord.fits, Bool.and_eq_true]

theorem InstrWord.zero_fits (width : Nat) : InstrWord.zero.fits width = true :=
  InstrWord.fits_iff.2 ⟨Word.fits_zero width, Word.fits_zero width⟩

/-- All a loader pair can become (R48). -/
theorem encodePair_cases {width : Nat} (h : 1 ≤ width) (p : Int × Int) :
    (pairWellFormed width p = true ∧ encodePair width p = some ⟨p.1, p.2⟩) ∨
      (pairWellFormed width p = false ∧ encodePair width p = none) := by
  cases hp : pairWellFormed width p
  · exact .inr ⟨rfl, by simp [encodePair, hp]⟩
  · have hf := hp
    simp only [pairWellFormed, Bool.and_eq_true] at hf
    refine .inl ⟨rfl, ?_⟩
    simp only [encodePair, hp, if_true, Word.wrap_of_fits h hf.1, Word.wrap_of_fits h hf.2]

/-- The bits of a word, read as signed, are its narrowing. -/
theorem Word.toInt_ofInt (width : Nat) (z : Int) : (BitVec.ofInt width z).toInt = Word.wrap width z := BitVec.toInt_ofInt z

/-- What `W` wires carry, read as signed, is a word. -/
theorem Word.toInt_fits {width : Nat} (h : 1 ≤ width) (b : BitVec width) : Word.fits width b.toInt = true := by
  rw [← BitVec.ofInt_toInt (x := b), Word.toInt_ofInt]
  exact Word.wrap_fits h _

/-- The two fields read back from the bits of an instruction word. -/
theorem InstrWord.ofBits_toBits (width : Nat) (w : InstrWord) :
    InstrWord.ofBits width (w.toBits width) = ⟨Word.wrap width w.opcode, Word.wrap width w.operand⟩ := by
  have hi : (w.toBits width).extractLsb' width width = BitVec.ofInt width w.opcode := by
    apply BitVec.eq_of_getLsbD_eq
    intro i hi
    have h1 : ¬ width + i < width := by omega
    have h2 : width + i - width = i := by omega
    simp only [InstrWord.toBits, BitVec.getLsbD_extractLsb', BitVec.getLsbD_append, hi, h1, h2, decide_true, Bool.true_and,
      if_false]
  have lo : (w.toBits width).extractLsb' 0 width = BitVec.ofInt width w.operand := by
    apply BitVec.eq_of_getLsbD_eq
    intro i hi
    simp [InstrWord.toBits, BitVec.getLsbD_append, hi]
  simp only [InstrWord.ofBits, hi, lo, Word.toInt_ofInt]

end Sys2Proof
end

