-- ==== Sys2Proof/Laws/Ops.lean ====
section
/-! SUPPORT. What each shared operation can do, once: the bounds-checked accesses, the I/O answers, and the shared forms of the
meanings. -/

namespace Sys2Proof.Machine

/-! ### Bounds-checked access -/

theorem State.memRead_inRange {s : State} {a : Int} (h0 : 0 ≤ a) (hN : a < s.params.dataCapacity) :
    s.memRead a = some (s.dmemAt a.toNat) := by
  unfold State.memRead
  rw [if_neg (by omega)]

theorem State.memRead_outOfRange {s : State} {a : Int} (h : a < 0 ∨ a ≥ s.params.dataCapacity) :
    s.memRead a = none := by
  unfold State.memRead
  rw [if_pos h]

theorem State.memWrite_inRange {s : State} {a v : Int} (h0 : 0 ≤ a) (hN : a < s.params.dataCapacity) :
    s.memWrite a v = some (s.setDmem a.toNat v) := by
  unfold State.memWrite
  rw [if_neg (by omega)]

theorem State.memWrite_outOfRange {s : State} {a v : Int} (h : a < 0 ∨ a ≥ s.params.dataCapacity) :
    s.memWrite a v = none := by
  unfold State.memWrite
  rw [if_pos h]

/-- All a data read can do. -/
theorem State.memRead_cases (s : State) (a : Int) :
    ((a < 0 ∨ a ≥ s.params.dataCapacity) ∧ s.memRead a = none) ∨
      (0 ≤ a ∧ a < s.params.dataCapacity ∧ s.memRead a = some (s.dmemAt a.toNat)) := by
  by_cases h : a < 0 ∨ a ≥ s.params.dataCapacity
  · exact .inl ⟨h, State.memRead_outOfRange h⟩
  · have h0 : 0 ≤ a := by omega
    have hN : a < s.params.dataCapacity := by omega
    exact .inr ⟨h0, hN, State.memRead_inRange h0 hN⟩

/-- All a data write can do. -/
theorem State.memWrite_cases (s : State) (a v : Int) :
    ((a < 0 ∨ a ≥ s.params.dataCapacity) ∧ s.memWrite a v = none) ∨
      (0 ≤ a ∧ a < s.params.dataCapacity ∧ s.memWrite a v = some (s.setDmem a.toNat v)) := by
  by_cases h : a < 0 ∨ a ≥ s.params.dataCapacity
  · exact .inl ⟨h, State.memWrite_outOfRange h⟩
  · have h0 : 0 ≤ a := by omega
    have hN : a < s.params.dataCapacity := by omega
    exact .inr ⟨h0, hN, State.memWrite_inRange h0 hN⟩

theorem State.iFetch_inRange {s : State} {a : Nat} (h : a < s.params.programCapacity) :
    s.iFetch a = some (s.imemAt a) := by
  unfold State.iFetch
  rw [if_neg (by omega)]

theorem State.iFetch_outOfRange {s : State} {a : Nat} (h : s.params.programCapacity ≤ a) : s.iFetch a = none := by
  unfold State.iFetch
  rw [if_pos h]

theorem State.targetInRange_iff {s : State} {a : Int} :
    s.targetInRange a = true ↔ 0 ≤ a ∧ a < s.params.programCapacity := by
  simp only [State.targetInRange, Bool.not_eq_true', Bool.or_eq_false_iff, decide_eq_false_iff_not, not_lt, ge_iff_le,
    not_le]

/-- A jump target in range is an index of Instruction Memory. -/
theorem State.target_toNat {s : State} {a : Int} (h : s.targetInRange a = true) : a.toNat < s.params.programCapacity := by
  obtain ⟨h0, hM⟩ := State.targetInRange_iff.1 h
  omega

/-- All `readInteger()` can answer (R72): a value only if it is a `W`-bit word. -/
theorem State.readInteger_cases (s : State) :
    (s.inAnswers = [] ∧ s.readInteger = .notYet) ∨
      (∃ rest, s.inAnswers = .fail :: rest ∧ s.readInteger = .fail rest) ∨
        (∃ v rest, s.inAnswers = .value v :: rest ∧ Word.fits s.params.width v = true ∧ s.readInteger = .value v rest) ∨
          (∃ v rest, s.inAnswers = .value v :: rest ∧ Word.fits s.params.width v = false ∧ s.readInteger = .misfit) := by
  rcases h : s.inAnswers with _ | ⟨_ | _, rest⟩
  · exact .inl ⟨rfl, by simp only [State.readInteger, h]⟩
  · next v =>
    cases hv : Word.fits s.params.width v
    · exact .inr (.inr (.inr ⟨v, rest, rfl, hv, by simp [State.readInteger, h, hv]⟩))
    · exact .inr (.inr (.inl ⟨v, rest, rfl, hv, by simp [State.readInteger, h, hv]⟩))
  · exact .inr (.inl ⟨rest, rfl, by simp only [State.readInteger, h]⟩)

/-- The `LOAD_PTR` output reads as the register: `0 .. M` fits its `W` wires (R18, R23, R9). -/
theorem State.statusPorts_loadPtr {s : State} (hp : s.params.wellFormed = true) (hl : s.loadPtr ≤ s.params.programCapacity) :
    s.statusPorts.loadPtr.toNat = s.loadPtr := by
  have hw := Params.wellFormed_iff.mp hp
  have hm := Word.modulus_eq (width := s.params.width) (by omega)
  exact Nat.mod_eq_of_lt (show s.loadPtr < Word.modulus s.params.width by omega)

/-- A value the signals of the input channel carry is a `W`-bit word (D28). -/
theorem inputSignals_fits {width : Nat} (h : 1 ≤ width) {inValid inFail : Bool} {inData : BitVec width} {v : Int}
    (hv : inputSignals width inValid inData inFail = some (.value v)) : Word.fits width v = true := by
  cases inFail <;> cases inValid <;> simp [inputSignals] at hv
  exact hv ▸ Word.toInt_fits h inData

/-- A data word read is a word when every word listed is. -/
theorem State.dmemAt_fits {s : State} (h : ∀ c ∈ s.dmem, Word.fits s.params.width c.2 = true) (a : Nat) :
    Word.fits s.params.width (s.dmemAt a) = true :=
  Memory.read_all (P := fun v => Word.fits s.params.width v = true) (Word.fits_zero _) h a

/-- An instruction word read is a word when every slot listed is. -/
theorem State.imemAt_fits {s : State} (h : ∀ c ∈ s.imem, c.2.fits s.params.width = true) (a : Nat) :
    (s.imemAt a).fits s.params.width = true :=
  Memory.read_all (P := fun w => InstrWord.fits s.params.width w = true) (InstrWord.zero_fits _) h a

/-! ### The shared forms of the meanings -/

/-- All the instructions that read Data Memory can do. -/
theorem readInto_cases (op : AluOp) (w : InstrWord) (s : State) :
    ((w.operand < 0 ∨ w.operand ≥ s.params.dataCapacity) ∧
        readInto op w s = .next (s.abort .outOfBounds w)) ∨
      (0 ≤ w.operand ∧ w.operand < s.params.dataCapacity ∧
        readInto op w s =
          .next ((s.advance w).setAcc (accumulatorAlu s.params.width op s.acc (s.dmemAt w.operand.toNat) 0))) := by
  rcases s.memRead_cases w.operand with ⟨h, hr⟩ | ⟨h0, hN, hr⟩
  · exact .inl ⟨h, by simp only [readInto, hr]⟩
  · exact .inr ⟨h0, hN, by simp only [readInto, hr]⟩

/-- All an illegal word can do. -/
theorem illegalOpcode_cases (w : InstrWord) (s : State) :
    (s.strict = true ∧ illegalOpcode w s = .next (s.abort .illegalOpcode w)) ∨
      (s.strict = false ∧ illegalOpcode w s = .next ((s.advance w).emit (.report s.pc w.opcode w.operand))) := by
  cases h : s.strict
  · exact .inr ⟨rfl, by simp [illegalOpcode, h]⟩
  · exact .inl ⟨rfl, by simp [illegalOpcode, h]⟩

end Sys2Proof.Machine
end

