-- ==== Sys2Proof/Laws/Step.lean ====
section
/-! SUPPORT. Everything a cycle and a step can do, said once. -/

namespace Sys2Proof.Machine

/-- The next states of a cycle that fetched `w`: the abort, a new Accumulator, a store, an event, a halt, or a new Program
Counter, each after phases 1 and 2. -/
inductive Effect (w : InstrWord) (s : State) : State → Prop
  /-- A phase-4 fault; the channel that failed has given its answer. -/
  | aborted (kind : FaultKind) (ins : List InAnswer) (outs : List OutAnswer)
      (hk : kind = .illegalOpcode ∨ kind = .outOfBounds ∨ kind = .ioFailure) :
      Effect w s (((s.setInAnswers ins).setOutAnswers outs).abort kind w)
  /-- LOAD, ADD, SUB, IN. -/
  | wroteAcc (v : Int) (ins : List InAnswer)
      (hv : v = s.acc ∨ (∃ a, v = s.dmemAt a) ∨ (∃ z, v = Word.wrap s.params.width z) ∨ Word.fits s.params.width v = true) : Effect w s (((s.setInAnswers ins).advance w).setAcc v)
  /-- STORE. -/
  | stored (ho : w.opcode = 3) (h0 : 0 ≤ w.operand) (hN : w.operand < s.params.dataCapacity) :
      Effect w s ((s.advance w).setDmem w.operand.toNat s.acc)
  /-- OUT and a skipped illegal word. -/
  | emitted (e : Event) (outs : List OutAnswer) : Effect w s (((s.setOutAnswers outs).advance w).emit e)
  /-- END. -/
  | halted (ho : w.opcode = 7) : Effect w s ((s.advance w).halt w.operand)
  /-- JMP and SKIPZ. -/
  | transferred (target : Nat)
      (ht : target < s.params.programCapacity ∨ target = s.pc + 1 ∨ target = s.pc + 1 + 1) :
      Effect w s ((s.advance w).setPc target)

theorem Effect.of_readInto {op : AluOp} {w : InstrWord} {s t : State} (h : readInto op w s = .next t) : Effect w s t := by
  rcases readInto_cases op w s with ⟨-, hr⟩ | ⟨-, -, hr⟩ <;> rw [hr] at h <;> cases h
  · exact .aborted .outOfBounds s.inAnswers s.outAnswers (.inr (.inl rfl))
  · refine .wroteAcc _ s.inAnswers ?_
    cases op
    · exact .inl rfl
    · exact .inr (.inl ⟨_, rfl⟩)
    · exact .inr (.inr (.inl ⟨_, rfl⟩))
    · exact .inr (.inr (.inl ⟨_, rfl⟩))
    · exact .inr (.inr (.inr (Word.fits_zero _)))

theorem Effect.of_illegalOpcode {w : InstrWord} {s t : State} (h : illegalOpcode w s = .next t) : Effect w s t := by
  rcases illegalOpcode_cases w s with ⟨-, hr⟩ | ⟨-, hr⟩ <;> rw [hr] at h <;> cases h
  · exact .aborted .illegalOpcode s.inAnswers s.outAnswers (.inl rfl)
  · exact .emitted _ s.outAnswers

theorem Effect.of_execStore {a : Int} {s t : State} (h : execStore a s = .next t) : Effect (encode (.store a)) s t := by
  unfold execStore at h
  rcases (s.advance (encode (.store a))).memWrite_cases a s.acc with ⟨-, hr⟩ | ⟨h0, hN, hr⟩ <;>
    rw [hr] at h <;> cases h
  · exact .aborted .outOfBounds s.inAnswers s.outAnswers (.inr (.inl rfl))
  · exact .stored rfl h0 hN

theorem Effect.of_execIn {a : Int} {s t : State} (h : execIn a s = .next t) : Effect (encode (.inp a)) s t := by
  unfold execIn at h
  rcases s.readInteger_cases with ⟨-, hr⟩ | ⟨rest, -, hr⟩ | ⟨v, rest, -, hv, hr⟩ | ⟨v, rest, -, -, hr⟩ <;>
    rw [hr] at h <;> cases h
  · exact Effect.aborted (s := s) .ioFailure rest s.outAnswers (.inr (.inr rfl))
  · exact .wroteAcc v rest (.inr (.inr (.inr hv)))

theorem Effect.of_execOut {a : Int} {s t : State} (h : execOut a s = .next t) : Effect (encode (.out a)) s t := by
  unfold execOut at h
  split at h <;> cases h
  · exact .aborted .ioFailure s.inAnswers _ (.inr (.inr rfl))
  · exact .emitted _ _

theorem Effect.of_execJmp {a : Int} {s t : State} (h : execJmp a s = .next t) : Effect (encode (.jmp a)) s t := by
  unfold execJmp programCounterMux at h
  cases hr : s.targetInRange a <;> simp only [hr] at h <;> cases h
  · exact .aborted .outOfBounds s.inAnswers s.outAnswers (.inr (.inl rfl))
  · exact .transferred a.toNat (.inl (State.target_toNat hr))

theorem Effect.of_execSkipz {a : Int} {s t : State} (h : execSkipz a s = .next t) : Effect (encode (.skipz a)) s t := by
  unfold execSkipz programCounterMux at h
  cases hz : s.accZero <;> simp only [hz] at h <;> cases h
  · exact .transferred _ (.inr (.inl rfl))
  · exact .transferred _ (.inr (.inr rfl))

/-- Every instruction's next state is one of the cases of `Effect`. -/
theorem Effect.of_exec {i : Instr} {s t : State} (h : exec i s = .next t) : Effect (encode i) s t := by
  cases i with
  | load a => exact Effect.of_readInto h
  | add a => exact Effect.of_readInto h
  | store a => exact Effect.of_execStore h
  | sub a => exact Effect.of_readInto h
  | inp a => exact Effect.of_execIn h
  | out a => exact Effect.of_execOut h
  | endRun a => cases h; exact .halted rfl
  | jmp a => exact Effect.of_execJmp h
  | skipz a => exact Effect.of_execSkipz h
  | na a => exact Effect.of_illegalOpcode h
  | reserved10 a => exact Effect.of_illegalOpcode h

/-- What the decoder answers, read backwards: an instruction's word, or the word itself rejected. -/
theorem decode_cases (w : InstrWord) : (∃ i, decode w = .instr i ∧ encode i = w) ∨ decode w = .illegalOpcode w := by
  obtain ⟨o, a⟩ := w
  by_cases h1 : o = 1
  · subst h1; exact .inl ⟨.load a, rfl, rfl⟩
  by_cases h2 : o = 2
  · subst h2; exact .inl ⟨.add a, rfl, rfl⟩
  by_cases h3 : o = 3
  · subst h3; exact .inl ⟨.store a, rfl, rfl⟩
  by_cases h4 : o = 4
  · subst h4; exact .inl ⟨.sub a, rfl, rfl⟩
  by_cases h5 : o = 5
  · subst h5; exact .inl ⟨.inp a, rfl, rfl⟩
  by_cases h6 : o = 6
  · subst h6; exact .inl ⟨.out a, rfl, rfl⟩
  by_cases h7 : o = 7
  · subst h7; exact .inl ⟨.endRun a, rfl, rfl⟩
  by_cases h8 : o = 8
  · subst h8; exact .inl ⟨.jmp a, rfl, rfl⟩
  by_cases h9 : o = 9
  · subst h9; exact .inl ⟨.skipz a, rfl, rfl⟩
  by_cases h0 : o = 0
  · subst h0; exact .inl ⟨.na a, rfl, rfl⟩
  by_cases h10 : o = 10
  · subst h10; exact .inl ⟨.reserved10 a, rfl, rfl⟩
  exact .inr (by simp only [decode, h1, h2, h3, h4, h5, h6, h7, h8, h9, h0, h10, if_false])

/-- Every next state of a dispatched word is one of the cases of `Effect`. -/
theorem Effect.of_dispatch {w : InstrWord} {s t : State} (h : dispatch w s = .next t) : Effect w s t := by
  unfold dispatch at h
  rcases decode_cases w with ⟨i, hd, rfl⟩ | hd <;> rw [hd] at h
  · exact Effect.of_exec h
  · exact Effect.of_illegalOpcode h

/-- The next states of one step that takes no reset, by what the host does and in which run state. `s` is the state with the host's present
action taken off its list. -/
inductive Moved (s : State) : State → Prop
  /-- `strict_mode` set while no run is under way, or to the level it has (R101). -/
  | setStrict (b : Bool) (h : s.runState ≠ .running ∨ b = s.strict) : Moved s (s.setStrict b)
  /-- A pair stored (R39). -/
  | loaded (w : InstrWord) (hw : w.fits s.params.width = true) (hi : s.runState = .idle)
      (hr : s.loadPtr < s.params.programCapacity) : Moved s ((s.setImem s.loadPtr w).setLoadPtr (s.loadPtr + 1))
  /-- The start command with no program (R82). -/
  | malformed (hi : s.runState = .idle) (hl : s.loadPtr = 0) : Moved s (s.raise .malformedProgram .start)
  /-- The start command (R53). -/
  | started (hi : s.runState = .idle) (hl : s.loadPtr ≠ 0) : Moved s (s.setRunState .running)
  /-- An action that has no effect in this run state (R104). -/
  | ignored : Moved s s
  /-- The stop request taken (R55). -/
  | stopped (hr : s.runState = .running) : Moved s (s.setRunState .stopped)
  /-- A fetch outside Instruction Memory (R56). -/
  | fetchFault (hr : s.runState = .running) (hp : s.params.programCapacity ≤ s.pc) :
      Moved s (s.raise .outOfBounds .fetch)
  /-- A cycle that fetched a word (R54). -/
  | executed (t : State) (hr : s.runState = .running) (hp : s.pc < s.params.programCapacity)
      (he : Effect (s.imemAt s.pc) s t) : Moved s t

theorem Moved.of_engine {stop : Bool} {s t : State} (h : engine stop s = .next t) : Moved s t := by
  unfold engine at h
  by_cases hr : s.runState = .running
  · simp only [State.isRunning, hr, decide_true, if_true] at h
    unfold cycle at h
    split at h
    · cases h; exact .stopped hr
    · by_cases hp : s.pc < s.params.programCapacity
      · rw [State.iFetch_inRange hp] at h
        exact .executed t hr hp (Effect.of_dispatch h)
      · rw [State.iFetch_outOfRange (not_lt.1 hp)] at h
        cases h; exact .fetchFault hr (not_lt.1 hp)
  · simp only [State.isRunning, hr, decide_false, Bool.false_eq_true, if_false] at h
    cases h; exact .ignored

theorem Moved.of_hostAction {act : HostAction} {s t : State} (hp : s.params.wellFormed = true) (ha : act ≠ .reset)
    (h : hostAction act s = .next t) : Moved s t := by
  cases act with
  | reset => exact absurd rfl ha
  | setStrict b =>
    simp only [hostAction] at h
    split at h
    · cases h
    · next hb =>
      cases h
      refine .setStrict b ?_
      by_cases hr : s.runState = .running
      · simp only [State.isRunning, hr, decide_true, Bool.true_and, decide_eq_true_eq, not_not] at hb
        exact .inr hb
      · exact .inl hr
  | load op a =>
    have hW : 1 ≤ s.params.width := by
      have := (Params.wellFormed_iff.1 hp).1
      omega
    rcases encodePair_cases hW (op, a) with ⟨hf, he⟩ | ⟨-, he⟩ <;> simp only [hostAction, he, State.loadPair] at h
    · split at h
      · next hl => cases h; exact .loaded ⟨op, a⟩ hf hl.1 hl.2
      · cases h; exact .ignored
    · cases h
  | start =>
    simp only [hostAction, State.start] at h
    split at h
    · cases h; exact .ignored
    · next hi =>
      split at h
      · next hl => cases h; exact .malformed (not_not.1 hi) hl
      · next hl => cases h; exact .started (not_not.1 hi) hl
  | cycle stop => exact Moved.of_engine h

/-- With no action left there is none to take off. -/
theorem State.takeAction_quiet {s : State} (h : s.host = []) : s.takeAction = s := by
  cases s
  simp only at h
  subst h
  rfl

/-- Everything a step that answers a next state can have done: a reset (R97), or one of the cases of `Moved`. -/
theorem step_cases {s t : State} (h : step s = .next t) :
    s.params.wellFormed = true ∧
      ((s.host.head? = some .reset ∧ t = s.takeAction.resetCore) ∨
        (s.host.head? ≠ some .reset ∧ Moved s.takeAction t)) := by
  unfold step blockStep at h
  split at h
  · next hp =>
    refine ⟨hp, ?_⟩
    cases hh : s.host with
    | nil =>
      simp only [hh] at h
      rw [State.takeAction_quiet hh]
      exact .inr ⟨by simp, Moved.of_engine h⟩
    | cons act rest =>
      simp only [hh] at h
      by_cases ha : act = .reset
      · subst ha
        cases h
        exact .inl ⟨rfl, rfl⟩
      · exact .inr ⟨by simpa using ha, Moved.of_hostAction (s := s.takeAction) hp ha h⟩
  · cases h

/-- A run of one step more, where the first step answers a next state. -/
theorem core_run_next {s t : State} (k : Nat) (h : step s = .next t) : core.run (k + 1) s = core.run k t := by
  have e : core.step s = .next t := h
  simp only [Host.Core.run, e]

end Sys2Proof.Machine
end

