-- ==== Sys2Proof/Laws/PerInstr.lean ====
section
/-! SUPPORT. Per-instruction facts about the instruction as syntax. Family `Format`: at every width `W` the `2W`-bit word of an
instruction holds its opcode value in the upper `W` bits and its operand, whole, in the lower `W` (R42, R44). -/

namespace Sys2Proof.Laws.Format

/-- The number the instruction's `2W` bits are. -/
def Statement (i : Instr) : Prop :=
  ∀ width : Nat, (encodeBits width i).toNat =
    Word.unsigned width i.opcode * Word.modulus width + Word.unsigned width i.operand

/-- The `2W` bits of a pair of words, as a number. -/
theorem toBits_toNat (width : Nat) (w : InstrWord) :
    (w.toBits width).toNat = Word.unsigned width w.opcode * Word.modulus width + Word.unsigned width w.operand := by
  have hu : ∀ z : Int, (BitVec.ofInt width z).toNat = Word.unsigned width z := BitVec.toNat_ofInt
  have ho := (BitVec.ofInt width w.operand).isLt
  rw [InstrWord.toBits, BitVec.toNat_append, Nat.shiftLeft_eq, ← Nat.shiftLeft_eq, ← Nat.shiftLeft_add_eq_or_of_lt ho,
    Nat.shiftLeft_eq, hu, hu]
  rfl

theorem load (a : Int) : Statement (.load a) := fun width => toBits_toNat width _
theorem add (a : Int) : Statement (.add a) := fun width => toBits_toNat width _
theorem store (a : Int) : Statement (.store a) := fun width => toBits_toNat width _
theorem sub (a : Int) : Statement (.sub a) := fun width => toBits_toNat width _
theorem inp (a : Int) : Statement (.inp a) := fun width => toBits_toNat width _
theorem out (a : Int) : Statement (.out a) := fun width => toBits_toNat width _
theorem endRun (a : Int) : Statement (.endRun a) := fun width => toBits_toNat width _
theorem jmp (a : Int) : Statement (.jmp a) := fun width => toBits_toNat width _
theorem skipz (a : Int) : Statement (.skipz a) := fun width => toBits_toNat width _
theorem na (a : Int) : Statement (.na a) := fun width => toBits_toNat width _
theorem reserved10 (a : Int) : Statement (.reserved10 a) := fun width => toBits_toNat width _

end Sys2Proof.Laws.Format
end

