-- ==== Sys2Proof/Tests/Slice0.lean ====
section
/-! SUPPORT. Tests: the checks of WellFormed, decoding of words written out from the spec's encoding table, one-step vectors of
`95_test_vectors.md` (the vector's id stands before each), and a witness for the hypotheses of every obligation that has any. -/

namespace Sys2Proof.Tests

open Sys2Proof.Machine Sys2Proof.Safety

/-- The start state of the vectors: `Running`, default configuration, the given `PC`, `ACC` and Data Memory words. -/
def vec (pc : Nat) (acc : Int) (dmem : List (Nat × Int)) : State :=
  { State.reset with pc := pc, acc := acc, dmem := dmem, runState := .running, loadPtr := 30 }

/-- The outcome is a next state with the property `p`. -/
def nextIs (o : Host.Outcome State Fault Refusal) (p : State → Bool) : Bool :=
  match o with
  | .next t => p t
  | .fault _ => false
  | .refused _ => false

/-- A phase-4 fault record, with `PC` one past the fault (R88). -/
def recorded (t : State) (code : BitVec 3) (fpc : Nat) (w : InstrWord) : Bool :=
  t.runState == .faulted && t.faultKind.code == code && t.faultPc == fpc && t.faultInstr == w && t.faultInstrValid &&
    t.pc == fpc + 1

/-! ### WellFormed: a term that each check refuses -/

theorem test_refuses_narrow_word : Params.wellFormed ⟨7, 10, 30⟩ = false ∧ Params.wellFormed ⟨8, 10, 30⟩ = true := by decide
theorem test_refuses_no_data_memory : Params.wellFormed ⟨32, 0, 30⟩ = false := by decide
theorem test_refuses_large_data_memory : Params.wellFormed ⟨32, 2147483648, 30⟩ = false ∧ Params.wellFormed ⟨8, 128, 30⟩ = false := by
  decide
theorem test_refuses_no_instruction_memory : Params.wellFormed ⟨32, 10, 0⟩ = false := by decide
theorem test_refuses_large_instruction_memory :
    Params.wellFormed ⟨32, 10, 2147483648⟩ = false ∧ Params.wellFormed ⟨8, 10, 128⟩ = false := by decide
theorem test_accepts_extreme_capacities :
    Params.wellFormed ⟨32, 1, 2147483647⟩ = true ∧ Params.wellFormed ⟨8, 127, 1⟩ = true := by decide
theorem test_refuses_wide_operand_of_instruction :
    (Instr.endRun 2147483648).wellFormed 32 = false ∧ (Instr.endRun (-2147483648)).wellFormed 32 = true ∧
    (Instr.inp 999).wellFormed 8 = false := by decide
theorem test_refuses_wide_opcode : pairWellFormed 32 (2147483648, 0) = false ∧ encodePair 8 (128, 0) = none := by decide
theorem test_refuses_wide_operand : pairWellFormed 32 (1, -2147483649) = false ∧ encodePair 8 (1, -129) = none := by decide
theorem test_accepts_extreme_pair :
    encodePair 32 (-2147483648, 2147483647) = some ⟨-2147483648, 2147483647⟩ ∧ encodePair 8 (99, -128) = some ⟨99, -128⟩ := by
  decide
theorem test_refuses_empty_program : programWellFormed Params.default [] = false := by decide
theorem test_refuses_long_program : programWellFormed ⟨32, 10, 1⟩ [(5, 0), (7, 0)] = false := by decide
theorem test_refuses_program_with_bad_pair : programWellFormed Params.default [(5, 0), (7, 4294967296)] = false := by decide

/-! ### Decoding: the table "Encoding" of `95_test_vectors.md` (R42, R45), opcode in bits 63:32, operand in bits 31:0 -/

theorem test_decode_load : decodeBits 32 0x0000000100000003#64 = .instr (.load 3) := by decide
theorem test_decode_add : decodeBits 32 0x0000000200000000#64 = .instr (.add 0) := by decide
theorem test_decode_store : decodeBits 32 0x0000000300000009#64 = .instr (.store 9) := by decide
theorem test_decode_sub : decodeBits 32 0x0000000400000001#64 = .instr (.sub 1) := by decide
theorem test_decode_in : decodeBits 32 0x0000000500000000#64 = .instr (.inp 0) := by decide
theorem test_decode_out : decodeBits 32 0x0000000600000000#64 = .instr (.out 0) := by decide
theorem test_decode_end : decodeBits 32 0x00000007FFFFFFFF#64 = .instr (.endRun (-1)) := by decide
theorem test_decode_jmp : decodeBits 32 0x000000080000001D#64 = .instr (.jmp 29) := by decide
theorem test_decode_skipz : decodeBits 32 0x0000000900000000#64 = .instr (.skipz 0) := by decide
theorem test_decode_na : decodeBits 32 0x0000000000000000#64 = .instr (.na 0) := by decide
theorem test_decode_reserved10 : decodeBits 32 0x0000000A00000000#64 = .instr (.reserved10 0) := by decide
theorem test_decode_99 : decodeBits 32 0x0000006300000000#64 = .illegalOpcode ⟨99, 0⟩ := by decide
theorem test_decode_minus_one : decodeBits 32 0xFFFFFFFF00000000#64 = .illegalOpcode ⟨-1, 0⟩ := by decide
theorem test_decode_257 : decodeBits 32 0x0000010100000000#64 = .illegalOpcode ⟨257, 0⟩ := by decide
theorem test_encode_jmp : encodeBits 32 (.jmp 29) = 0x000000080000001D#64 := by decide
/-- The layout of R42 at the smallest width: opcode in bits 15:8, operand in bits 7:0. -/
theorem test_decode_at_width_8 :
    decodeBits 8 0x0380#16 = .instr (.store (-128)) ∧ decodeBits 8 0xFF00#16 = .illegalOpcode ⟨-1, 0⟩ ∧
    encodeBits 8 (.endRun (-1)) = 0x07FF#16 := by decide
theorem test_table_word : decodeTableWord 64 0x00000003FFFFFFFB = some (.store (-5)) ∧ decodeTableWord 64 0x0000010100000000 = none := by
  decide

/-! ### The nine instructions, one cycle each: the word stands at `PC`, the step fetches it -/

-- V-L2
theorem test_load_last_word :
    nextIs (step ((vec 4 1 [(9, -2147483648)]).withFetchWord 64 0x0000000100000009))
      (fun t => t.acc == -2147483648 && t.pc == 5 && t.runState == .running) = true := by decide
-- V-L3, V-L4
theorem test_load_out_of_range :
    nextIs (step ((vec 4 1 []).withFetchWord 64 0x000000010000000A)) (fun t => recorded t 3 4 ⟨1, 10⟩ && t.acc == 1) = true ∧
    nextIs (step ((vec 4 1 []).withFetchWord 64 0x00000001FFFFFFFF)) (fun t => recorded t 3 4 ⟨1, -1⟩ && t.acc == 1) = true := by
  decide
-- V-A2, V-A3
theorem test_add_wraps :
    nextIs (step ((vec 2 2147483647 [(1, 1)]).withFetchWord 64 0x0000000200000001))
      (fun t => t.acc == -2147483648 && t.pc == 3 && t.runState == .running) = true ∧
    nextIs (step ((vec 2 (-2147483648) [(1, -1)]).withFetchWord 64 0x0000000200000001))
      (fun t => t.acc == 2147483647 && t.pc == 3) = true := by decide
-- R69 at `W = 8`: `MAX + 1 = MIN`; V-A6 at `W = 32`
theorem test_add_other_width_and_out_of_range :
    nextIs (step (({ vec 2 127 [(1, 1)] with params := ⟨8, 10, 30⟩ }).withFetchWord 16 0x0201)) (fun t => t.acc == -128) = true ∧
    nextIs (step ((vec 2 5 []).withFetchWord 64 0x000000020000000A)) (fun t => recorded t 3 2 ⟨2, 10⟩ && t.acc == 5) = true := by
  decide
-- V-ST2
theorem test_store_replaces :
    nextIs (step ((vec 1 (-1) [(0, 8), (4, 6)]).withFetchWord 64 0x0000000300000000))
      (fun t => t.dmemAt 0 == -1 && t.dmemAt 4 == 6 && t.acc == -1 && t.pc == 2) = true := by decide
-- V-ST3
theorem test_store_out_of_range :
    nextIs (step ((vec 1 42 [(9, 6)]).withFetchWord 64 0x000000030000000A))
      (fun t => recorded t 3 1 ⟨3, 10⟩ && t.dmem == [(9, 6)]) = true := by decide
-- V-S1
theorem test_sub_minuend :
    nextIs (step ((vec 3 5 [(1, 7)]).withFetchWord 64 0x0000000400000001)) (fun t => t.acc == -2 && t.pc == 4) = true := by decide
-- V-S2, V-S3
theorem test_sub_wraps :
    nextIs (step ((vec 3 (-2147483648) [(1, 1)]).withFetchWord 64 0x0000000400000001)) (fun t => t.acc == 2147483647) = true ∧
    nextIs (step ((vec 3 0 [(1, -2147483648)]).withFetchWord 64 0x0000000400000001)) (fun t => t.acc == -2147483648) = true := by
  decide
-- V-I4
theorem test_in_ignores_operand :
    nextIs (step (({ vec 0 3 [] with inAnswers := [.value 10] }).withFetchWord 64 0x00000005000003E7))
      (fun t => t.acc == 10 && t.pc == 1 && t.inAnswers == []) = true := by decide
-- V-I5
theorem test_in_failure :
    nextIs (step (({ vec 0 3 [] with inAnswers := [.fail] }).withFetchWord 64 0x0000000500000000))
      (fun t => recorded t 4 0 ⟨5, 0⟩ && t.acc == 3) = true := by decide
-- V-O3
theorem test_out_emits :
    nextIs (step ((vec 1 42 []).withFetchWord 64 0x00000006FFFFFFFB))
      (fun t => t.trace == [.output 42] && t.acc == 42 && t.pc == 2) = true := by decide
-- V-O4
theorem test_out_failure :
    nextIs (step (({ vec 1 42 [] with outAnswers := [.fail] }).withFetchWord 64 0x0000000600000000))
      (fun t => recorded t 4 1 ⟨6, 0⟩ && t.trace == []) = true := by decide
-- V-E3
theorem test_end_negative_status :
    nextIs (step ((vec 2 9 []).withFetchWord 64 0x00000007FFFFFFFF))
      (fun t => t.result == some (.exitStatus (-1)) && t.pc == 3 && t.acc == 9) = true := by decide
-- V-E4
theorem test_end_in_last_slot :
    nextIs (step ((vec 29 0 []).withFetchWord 64 0x00000007000003E8))
      (fun t => t.runState == .halted && t.exitStatus == 1000 && t.pc == 30 && t.faultKind == .none) = true := by decide
-- V-J2, V-J8
theorem test_jmp_bound_is_program_capacity :
    nextIs (step ((vec 6 0 []).withFetchWord 64 0x000000080000001D)) (fun t => t.pc == 29) = true ∧
    nextIs (step ((vec 6 0 []).withFetchWord 64 0x000000080000000F)) (fun t => t.pc == 15) = true := by decide
-- V-J3, V-J4
theorem test_jmp_out_of_range :
    nextIs (step ((vec 6 0 []).withFetchWord 64 0x000000080000001E)) (fun t => recorded t 3 6 ⟨8, 30⟩) = true ∧
    nextIs (step ((vec 6 0 []).withFetchWord 64 0x00000008FFFFFFFF)) (fun t => recorded t 3 6 ⟨8, -1⟩) = true := by decide
-- V-K6
theorem test_skipz_skips_past_the_end :
    nextIs (step ((vec 29 0 []).withFetchWord 64 0x0000000900000000)) (fun t => t.pc == 31 && t.runState == .running) = true := by
  decide
-- V-K4, V-K5
theorem test_skipz_tests_every_bit :
    nextIs (step ((vec 5 (-2147483648) []).withFetchWord 64 0x0000000900000000)) (fun t => t.pc == 6) = true ∧
    nextIs (step ((vec 5 1 []).withFetchWord 64 0x0000000900000007)) (fun t => t.pc == 6) = true := by decide

/-! ### Illegal opcodes -/

-- V-X2, V-X8
theorem test_na_both_modes :
    nextIs (step ((vec 4 8 []).withFetchWord 64 0x0000000000000000))
      (fun t => t.trace == [.report 4 0 0] && t.pc == 5 && t.runState == .running) = true ∧
    nextIs (step (({ vec 4 8 [] with strict := true }).withFetchWord 64 0x0000000000000000))
      (fun t => recorded t 2 4 ⟨0, 0⟩ && t.trace == []) = true := by decide
-- V-X3, V-X9
theorem test_reserved10_both_modes :
    nextIs (step ((vec 4 8 []).withFetchWord 64 0x0000000A00000003)) (fun t => t.trace == [.report 4 10 3] && t.pc == 5) = true ∧
    nextIs (step (({ vec 4 8 [] with strict := true }).withFetchWord 64 0x0000000A00000000))
      (fun t => recorded t 2 4 ⟨10, 0⟩) = true := by decide
-- V-X4, V-X5, V-X7
theorem test_unlisted_both_modes :
    nextIs (step ((vec 4 8 []).withFetchWord 64 0xFFFFFFFF00000000)) (fun t => t.trace == [.report 4 (-1) 0]) = true ∧
    nextIs (step ((vec 4 8 []).withFetchWord 64 0x0000010100000000))
      (fun t => t.trace == [.report 4 257 0] && t.acc == 8 && t.pc == 5) = true ∧
    nextIs (step (({ vec 4 8 [] with strict := true }).withFetchWord 64 0x0000006300000000))
      (fun t => recorded t 2 4 ⟨99, 0⟩ && t.acc == 8) = true := by decide

/-! ### Fetch, stop, start, load, reset -/

-- V-F1
theorem test_fetch_fault :
    nextIs (step { vec 30 7 [] with ir := ⟨2, 2⟩ })
      (fun t => t.faultKind.code == 3 && t.faultPc == 30 && !t.faultInstrValid && t.pc == 30 && t.ir == ⟨2, 2⟩ &&
        t.runState == .faulted) = true := by decide
-- V-F4
theorem test_stop_wins_over_fetch_fault :
    nextIs (step { vec 30 2 [] with host := [.cycle true] })
      (fun t => t.runState.code == 4 && t.pc == 30 && t.faultKind == .none) = true := by decide
-- V-F5, V-F6
theorem test_start :
    nextIs (step { State.reset with host := [.start] })
      (fun t => t.runState == .faulted && t.faultKind.code == 1 && t.faultPc == 0 && !t.faultInstrValid) = true ∧
    nextIs (step { State.reset with loadPtr := 1, host := [.start] }) (fun t => t.runState == .running && t.pc == 0) = true := by
  decide
-- V-F7
theorem test_terminal_ignores_host :
    let h : State := { vec 3 0 [] with runState := .halted }
    nextIs (step { h with host := [.start] }) (fun t => t == h) = true ∧
    nextIs (step { h with host := [.load 7 0] }) (fun t => t == h) = true ∧
    nextIs (step { h with host := [.cycle true] }) (fun t => t == h) = true := by decide
-- V-F8, V-F9
theorem test_load_dropped :
    nextIs (step { State.reset with loadPtr := 30, host := [.load 7 0] }) (fun t => t.loadPtr == 30 && t.imem == []) = true ∧
    nextIs (step { vec 0 0 [] with loadPtr := 1, host := [.load 7 0] }) (fun t => t.loadPtr == 1 && t.imem == []) = true := by
  decide
-- R39
theorem test_load_appends :
    nextIs (step { State.reset with loadPtr := 1, imem := [(0, ⟨5, 0⟩)], host := [.load (-1) 4] })
      (fun t => t.loadPtr == 2 && t.imem == [(0, ⟨5, 0⟩), (1, ⟨-1, 4⟩)]) = true := by decide
-- V-F10, from the end of V-J3
theorem test_reset_clears_the_record :
    nextIs (step { vec 7 5 [(1, 2)] with
        runState := .faulted, faultKind := .outOfBounds, faultPc := 6, faultInstr := ⟨8, 30⟩, faultInstrValid := true,
        imem := [(6, ⟨8, 30⟩)], host := [.reset] })
      (fun t => t == State.reset) = true := by decide
-- R14, R20: the codes
theorem test_codes :
    [RunState.idle, .running, .halted, .faulted, .stopped].map RunState.code = [0, 1, 2, 3, 4] ∧
    [FaultKind.none, .malformedProgram, .illegalOpcode, .outOfBounds, .ioFailure].map FaultKind.code = [0, 1, 2, 3, 4] := by decide
-- R23, R18: the host sees `LOAD_PTR` as an output; 0 after reset, `M` once the memory is full
theorem test_load_ptr_output :
    State.reset.statusPorts.loadPtr.toNat = 0 ∧ { State.reset with loadPtr := 30 }.statusPorts.loadPtr.toNat = 30 := by decide
-- R52: `in_fail` wins over `in_valid`
theorem test_in_fail_wins : inputSignals 8 true 0xFB true = some .fail ∧ inputSignals 8 true 0xFB false = some (.value (-5)) := by decide

/-! ### Witnesses: a state and operands that meet the hypotheses of each obligation, one conjunct a clause, at the boundaries -/

/-- A running state with an input value waiting, a fetchable `PC`, and Data Memory words for the extreme sums. -/
def run0 : State := { vec 4 1 [(0, 2147483647), (9, -2147483648)] with inAnswers := [.value 10, .value 11] }

/-- A state of the invariant: one instruction (an IN) loaded and run, `PC` at the first unloaded slot. -/
def loaded : State :=
  { State.reset with
    runState := .running, loadPtr := 1, pc := 1, acc := 3, ir := ⟨5, 0⟩, imem := [(0, ⟨5, 0⟩)] }

/-- The extreme operands, at the default and at the smallest width. -/
theorem witness_DecodeOfEncode :
    8 ≤ 32 ∧ (Instr.endRun (-2147483648)).wellFormed 32 = true ∧ (Instr.jmp 2147483647).wellFormed 32 = true ∧
    (Instr.load (-128)).wellFormed 8 = true ∧ (Instr.reserved10 127).wellFormed 8 = true := by decide
theorem witness_EncodeOfDecode : decodeBits 8 0x0380#16 = .instr (.store (-128)) ∧ decodeBits 32 0x000000080000001D#64 = .instr (.jmp 29) := by decide

/-- The first and the last index of Data Memory, and the first value outside on either side. -/
theorem data_operands : DataIndex run0 0 ∧ DataIndex run0 9 ∧ ¬ DataIndex run0 10 ∧ ¬ DataIndex run0 (-1) := by
  unfold DataIndex; decide

theorem witness_LoadFollowsItsRule : DataIndex run0 0 ∧ DataIndex run0 9 ∧ ¬ DataIndex run0 10 ∧ ¬ DataIndex run0 (-1) :=
  data_operands
/-- The three cases of the sum: `1 + MAX` above, `-1 + MIN` below, `0 + MAX` exactly at the bound. -/
theorem witness_AddFollowsItsRule :
    8 ≤ run0.params.width ∧ (∀ z ∈ [run0.acc, -1, 0, run0.dmemAt 0, run0.dmemAt 9], Word.fits 32 z = true) ∧
    (DataIndex run0 0 ∧ run0.acc + (run0.dmemAt 0) = 2147483648) ∧
    (DataIndex { run0 with acc := -1 } 9 ∧ (-1 : Int) + (run0.dmemAt 9) = -2147483649) ∧
    (DataIndex { run0 with acc := 0 } 0 ∧ (0 : Int) + (run0.dmemAt 0) = 2147483647) ∧
    ¬ DataIndex run0 10 ∧ ¬ DataIndex run0 (-1) := by
  unfold DataIndex; decide
theorem witness_StoreFollowsItsRule : DataIndex run0 0 ∧ DataIndex run0 9 ∧ ¬ DataIndex run0 10 ∧ ¬ DataIndex run0 (-1) :=
  data_operands
/-- The three cases of the difference: `0 - MIN` above, `-2 - MAX` below, `-1 - MAX` exactly at the bound. -/
theorem witness_SubFollowsItsRule :
    8 ≤ run0.params.width ∧ (∀ z ∈ [0, -2, -1, run0.dmemAt 0, run0.dmemAt 9], Word.fits 32 z = true) ∧
    (DataIndex { run0 with acc := 0 } 9 ∧ (0 : Int) - (run0.dmemAt 9) = 2147483648) ∧
    (DataIndex { run0 with acc := -2 } 0 ∧ (-2 : Int) - (run0.dmemAt 0) = -2147483649) ∧
    (DataIndex { run0 with acc := -1 } 0 ∧ (-1 : Int) - (run0.dmemAt 0) = -2147483648) ∧
    ¬ DataIndex run0 10 ∧ ¬ DataIndex run0 (-1) := by
  unfold DataIndex; decide
theorem witness_LoadThenStoreKeepsDataMemory : DataIndex run0 9 := data_operands.2.1
theorem witness_LoadReadsLatestStore :
    (DataIndex run0 9 ∧ DataIndex run0 9) ∧ (DataIndex run0 0 ∧ DataIndex run0 9 ∧ (0 : Int) ≠ 9) :=
  ⟨⟨data_operands.2.1, data_operands.2.1⟩, data_operands.1, data_operands.2.1, by decide⟩
theorem witness_AddThenSubRestores : 8 ≤ run0.params.width ∧ Word.fits run0.params.width run0.acc = true ∧ DataIndex run0 0 :=
  ⟨by decide, by decide, data_operands.1⟩
theorem witness_LoadSubSkips : DataIndex run0 9 := data_operands.2.1
theorem witness_LoadAddCommutes :
    8 ≤ run0.params.width ∧ DataIndex run0 0 ∧ DataIndex run0 9 ∧ Word.fits 32 (run0.dmemAt 0 + run0.dmemAt 9) = true :=
  ⟨by decide, data_operands.1, data_operands.2.1, by decide⟩

/-- A value that fits, the first that does not, a failure, and no answer. -/
theorem witness_InFollowsItsRule :
    Word.fits run0.params.width 10 = true ∧ Word.fits run0.params.width 2147483647 = true ∧
    Word.fits run0.params.width 2147483648 = false ∧
    { run0 with inAnswers := [.value 2147483648] }.inAnswers = .value 2147483648 :: [] ∧
    run0.inAnswers = .value 10 :: [.value 11] ∧ { run0 with inAnswers := [.fail] }.inAnswers = .fail :: [] ∧
    { run0 with inAnswers := [] }.inAnswers = [] := by decide
theorem witness_OutFollowsItsRule :
    run0.nextOutAnswer = .accepted ∧ { run0 with outAnswers := [.accepted] }.nextOutAnswer = .accepted ∧
    { run0 with outAnswers := [.fail] }.nextOutAnswer = .fail := by decide
theorem witness_InputsConsumedInOrder :
    run0.inAnswers = .value 10 :: .value 11 :: [] ∧ Word.fits run0.params.width 10 = true ∧
    Word.fits run0.params.width 11 = true := by decide
theorem witness_IgnoredOperandHasNoEffect :
    (∃ t, exec (.inp 0) run0 = .next t) ∧ (∃ t, exec (.out 0) run0 = .next t) ∧ (∃ t, exec (.skipz 0) run0 = .next t) :=
  ⟨⟨_, rfl⟩, ⟨_, rfl⟩, ⟨_, rfl⟩⟩

/-- After the END a later step exists that takes no reset. -/
theorem witness_EndFollowsItsRule :
    let t : State := { fetched run0 ⟨7, 5⟩ with exitStatus := 5, runState := .halted }
    t.host.head? ≠ some .reset ∧ ∃ u, step t = .next u := ⟨by decide, _, rfl⟩
/-- The first and the last index of Instruction Memory, and the first value outside on either side. -/
theorem witness_JmpFollowsItsRule :
    InstrIndex run0 0 ∧ InstrIndex run0 29 ∧ ¬ InstrIndex run0 30 ∧ ¬ InstrIndex run0 (-1) := by
  unfold InstrIndex; decide
theorem witness_SkipzFollowsItsRule : { run0 with acc := 0 }.acc = 0 ∧ run0.acc ≠ 0 := by decide

/-- The illegal opcodes next to the legal range, and an unlisted one. -/
theorem witness_IllegalWordSkippedWhenLenient :
    (0 : Int) < 1 ∧ (10 : Int) > 9 ∧ (-1 : Int) < 1 ∧ run0.strict = false := by decide
theorem witness_IllegalWordFaultsWhenStrict :
    (0 : Int) < 1 ∧ (10 : Int) > 9 ∧ (257 : Int) > 9 ∧ { run0 with strict := true }.strict = true := by
  decide
theorem witness_SentinelAndReservedAreIllegal : run0.strict = false ∧ { run0 with strict := true }.strict = true := by decide

theorem witness_NextProgramCounterOfAnInstruction :
    (InstrIndex run0 29 ∧ ∃ t, exec (.jmp 29) run0 = .next t) ∧
    (∃ t, exec (.skipz 0) { run0 with acc := 0 } = .next t) ∧
    (¬ InstrIndex run0 30 ∧ ∃ t, exec (.jmp 30) run0 = .next t) ∧
    (run0.acc ≠ 0 ∧ ∃ t, exec (.skipz 0) run0 = .next t) ∧ ∃ t, exec (.load 9) run0 = .next t :=
  ⟨⟨witness_JmpFollowsItsRule.2.1, _, rfl⟩, ⟨_, rfl⟩, ⟨witness_JmpFollowsItsRule.2.2.1, _, rfl⟩, ⟨by decide, _, rfl⟩, _, rfl⟩
theorem witness_FaultingInstructionHasNoEffect :
    run0.runState ≠ .faulted ∧ ∃ t, dispatch ⟨3, 10⟩ run0 = .next t ∧ t.runState = .faulted :=
  ⟨by decide, _, rfl, rfl⟩
theorem witness_OutOfBoundsExactlyForInvalidOperands :
    run0.faultKind = .none ∧ (∃ t, exec (.load 10) run0 = .next t ∧ t.faultKind = .outOfBounds) ∧
    (operandForm (.jmp 30)).valid run0.params 30 = false ∧ (operandForm (.load 9)).valid run0.params 9 = true :=
  ⟨by decide, ⟨_, rfl, rfl⟩, by decide, by decide⟩
theorem witness_OneFaultConditionEach :
    run0.runState = .running ∧ (∃ t, exec (.jmp 30) run0 = .next t ∧ t.runState = .faulted) ∧
    (∃ t, exec (.inp 0) { run0 with inAnswers := [.fail] } = .next t ∧ t.runState = .faulted) ∧
    (∃ t, exec (.na 0) { run0 with strict := true } = .next t ∧ t.runState = .faulted) :=
  ⟨by decide, ⟨_, rfl, rfl⟩, ⟨_, rfl, rfl⟩, ⟨_, rfl, rfl⟩⟩
theorem witness_OnlyStoreWritesDataMemory :
    (∃ t, exec (.store 9) run0 = .next t ∧ t.dmemAt 9 ≠ run0.dmemAt 9) ∧ ∃ t, exec (.load 9) run0 = .next t :=
  ⟨⟨_, rfl, by decide⟩, _, rfl⟩
theorem witness_OnlyFourWriteTheAccumulator :
    (∃ t, exec (.out 0) run0 = .next t) ∧
    ∀ a : Int, (Instr.out 0) ≠ .load a ∧ (Instr.out 0) ≠ .add a ∧ (Instr.out 0) ≠ .sub a ∧ (Instr.out 0) ≠ .inp a :=
  ⟨⟨_, rfl⟩, fun _ => ⟨nofun, nofun, nofun, nofun⟩⟩
theorem witness_InstructionsLeaveTheHostSideAlone :
    (∃ t, exec (.out 0) run0 = .next t) ∧ ∃ t, exec (.inp 0) run0 = .next t := ⟨⟨_, rfl⟩, _, rfl⟩
theorem witness_ResultRegistersFrame :
    (∃ t, exec (.endRun 1) run0 = .next t ∧ t.runState ≠ .faulted) ∧
    ∃ t, exec (.load 10) run0 = .next t ∧ t.runState = .faulted :=
  ⟨⟨_, rfl, by decide⟩, _, rfl, rfl⟩
theorem witness_EventsOfAnInstruction :
    (∃ t, exec (.out 0) run0 = .next t ∧ t.trace = [.output 1]) ∧
    (∃ t, exec (.na 0) run0 = .next t ∧ t.trace = [.report 4 0 0]) ∧ ∃ t, exec (.load 0) run0 = .next t ∧ t.trace = [] :=
  ⟨⟨_, rfl, rfl⟩, ⟨_, rfl, rfl⟩, _, rfl, rfl⟩

/-- A cycle that fetches a word of the opcode map from the last slot, and one that fetches an unlisted word. -/
theorem witness_StepRunsTheDecodedInstruction :
    (Fetches ({ run0 with pc := 29 }.placeWord ⟨8, 29⟩) ⟨8, 29⟩ ∧ decode ⟨8, 29⟩ = .instr (.jmp 29)) ∧
    (Fetches { run0 with imem := [(4, ⟨99, 0⟩)] } ⟨99, 0⟩ ∧ decode ⟨99, 0⟩ = .illegalOpcode ⟨99, 0⟩) :=
  ⟨⟨⟨by decide, by decide, by decide, by decide, .inr ⟨_, rfl⟩⟩, by decide⟩,
   ⟨⟨by decide, by decide, by decide, by decide, .inl rfl⟩, by decide⟩⟩
theorem witness_PlacedWordRunsNext :
    run0.params.wellFormed = true ∧ { run0 with pc := 29 }.pc < run0.params.programCapacity ∧
    decodeTableWordAt run0.params.width 64 0x0000000900000000 = some (.skipz 0) ∧
    decodeTableWordAt 8 16 0x0900 = some (.skipz 0) := by decide
theorem witness_FetchPhase :
    (run0.params.wellFormed = true ∧ run0.runState = .running ∧ run0.host = []) ∧
    (∃ rest, { run0 with host := [.cycle false] }.host = .cycle false :: rest) ∧
    run0.params.programCapacity ≤ { run0 with pc := 30 }.pc ∧
    ({ run0 with pc := 29 }.pc < run0.params.programCapacity ∧ ∃ t, step { run0 with pc := 29 } = .next t) :=
  ⟨by decide, ⟨_, rfl⟩, by decide, by decide, _, rfl⟩
/-- The stop taken, the fetch fault, a JMP at its last target, a SKIPZ that skips, and a JMP out of range. -/
theorem witness_NextProgramCounterOfACycle :
    (∃ t, step { run0 with host := [.cycle true] } = .next t) ∧
    (∃ t, step { run0 with pc := 30, host := [.cycle false] } = .next t) ∧
    (∃ t, step ({ run0 with imem := [(4, ⟨8, 29⟩)], host := [.cycle false] }) = .next t) ∧
    (∃ t, step ({ run0 with acc := 0, imem := [(4, ⟨9, 0⟩)], host := [.cycle false] }) = .next t) ∧
    (∃ t, step ({ run0 with imem := [(4, ⟨8, 30⟩)], host := [.cycle false] }) = .next t) ∧ run0.runState = .running :=
  ⟨⟨_, rfl⟩, ⟨_, rfl⟩, ⟨_, rfl⟩, ⟨_, rfl⟩, ⟨_, rfl⟩, rfl⟩
theorem witness_StopRequestEndsTheRun :
    run0.params.wellFormed = true ∧ { run0 with host := [.cycle true] }.host = .cycle true :: [] ∧ run0.runState = .running ∧
    State.reset.params.wellFormed = true ∧ State.reset.runState ≠ .running := by decide
theorem witness_TerminalStateLeftOnlyByReset :
    let h : State := { run0 with runState := .stopped, host := [.load 7 0, .start, .cycle true] }
    h.runState.terminal = true ∧ h.host.head? ≠ some .reset ∧ ∃ t, step h = .next t := ⟨by decide, by decide, _, rfl⟩
theorem witness_StartCommand :
    let h : State := { State.reset with host := [.start] }
    h.params.wellFormed = true ∧ h.host = .start :: [] ∧ (h.runState = .idle ∧ h.loadPtr = 0) ∧
    ({ h with loadPtr := 1 }.runState = .idle ∧ { h with loadPtr := 1 }.loadPtr ≠ 0) ∧
    { h with runState := .running }.runState ≠ .idle := by decide
/-- The first and the last slot, the full memory, another state than `Idle`, and the first integers that do not fit. -/
theorem witness_LoadPort :
    let h : State := { State.reset with host := [.load 99 (-1)] }
    h.params.wellFormed = true ∧ h.host = .load 99 (-1) :: [] ∧ h.runState = .idle ∧
    Word.fits h.params.width 99 = true ∧ Word.fits h.params.width (-1) = true ∧
    Word.fits h.params.width 2147483648 = false ∧ Word.fits h.params.width (-2147483649) = false ∧
    h.loadPtr < h.params.programCapacity ∧ { h with loadPtr := 29 }.loadPtr < h.params.programCapacity ∧
    h.params.programCapacity ≤ { h with loadPtr := 30 }.loadPtr ∧
    { h with runState := .running }.runState ≠ .idle := by decide
theorem witness_ResetFromAnyState :
    run0.params.wellFormed = true ∧ { run0 with host := [.reset] }.host = .reset :: [] := by decide
theorem witness_StrictModeChange :
    run0.params.wellFormed = true ∧ { run0 with host := [.setStrict true] }.host = .setStrict true :: [] ∧
    (run0.runState = .running ∧ true ≠ run0.strict) ∧ State.reset.runState ≠ .running ∧ false = run0.strict := by decide
theorem witness_ParametersOutOfRangeAreRefused :
    (⟨7, 10, 30⟩ : Params).width < 8 ∧ (⟨32, 0, 30⟩ : Params).dataCapacity = 0 ∧ (⟨32, 10, 0⟩ : Params).programCapacity = 0 ∧
    (⟨32, 2147483648, 30⟩ : Params).dataCapacity > Word.maxSigned 32 ∧
    (⟨8, 10, 128⟩ : Params).programCapacity > Word.maxSigned 8 := by decide

/-- A state of the invariant that runs. -/
theorem loaded_inv : Inv loaded where
  bounded := ⟨by decide, by decide, by decide, by decide, by decide, by decide⟩
  sized := ⟨by decide, by decide, by decide, by decide, by decide, by decide, by decide⟩
  recorded := ⟨by decide, by decide, by decide, by decide, by decide, by decide, by decide, by decide⟩
theorem witness_StepKeepsInv : Inv loaded ∧ ∃ t, step loaded = .next t := ⟨loaded_inv, _, rfl⟩
theorem witness_HaltedOnlyByEnd :
    let h : State := { run0 with imem := [(4, ⟨7, 3⟩)] }
    h.runState ≠ .halted ∧ ∃ t, step h = .next t ∧ t.runState = .halted := ⟨by decide, _, rfl, rfl⟩
theorem witness_InstructionMemoryReadOnlyWhileRunning :
    let h : State := { run0 with host := [.load 7 0] }
    h.runState = .running ∧ h.host.head? ≠ some .reset ∧ ∃ t, step h = .next t := ⟨by decide, by decide, _, rfl⟩
theorem witness_DataMemoryWrittenOnlyByStore :
    let h : State := { run0 with imem := [(4, ⟨3, 9⟩)] }
    h.host.head? ≠ some .reset ∧ ∃ t, step h = .next t ∧ t.dmemAt 9 ≠ h.dmemAt 9 := ⟨by decide, _, rfl, by decide⟩
theorem witness_FaultRecordWrittenOnce :
    let h : State := { run0 with imem := [(4, ⟨3, 10⟩)] }
    h.host.head? ≠ some .reset ∧ ∃ t, step h = .next t ∧ t.faultKind ≠ h.faultKind := ⟨by decide, _, rfl, by decide⟩
theorem witness_TraceGrowsByAtMostOneEvent :
    (∃ t, step run0 = .next t ∧ t.trace = [.report 4 0 0]) ∧ ∃ t, step State.reset = .next t ∧ t.trace = [] :=
  ⟨⟨_, rfl, rfl⟩, _, rfl, rfl⟩
theorem witness_FetchRegistersCarryNothing : Fetches run0 ⟨0, 0⟩ :=
  ⟨by decide, by decide, by decide, by decide, .inl rfl⟩
theorem witness_TraceIsNotReadBack : ∃ t, step { run0 with imem := [(4, ⟨6, 0⟩)] } = .next t ∧ t.trace = [.output 1] :=
  ⟨_, rfl, rfl⟩
/-- A step of a running block, and an IN that waits, with a quiet host and with a cycle asked for. -/
theorem witness_OnlyAWaitingInputHasNoSuccessor :
    let h : State := { run0 with imem := [(4, ⟨5, 0⟩)], inAnswers := [] }
    run0.params.wellFormed = true ∧ (∀ b : Bool, run0.host.head? ≠ some (.setStrict b)) ∧
    Word.fits run0.params.width 10 = true ∧ run0.inAnswers.head? = some (.value 10) ∧ run0.host.head? = none ∧
    pairWellFormed run0.params.width (99, -1) = true ∧ h.inAnswers.head? = none ∧
    h.params.wellFormed = true ∧ h.awaitsInput = true ∧ h.host = [] ∧
    { h with host := [.cycle false] }.awaitsInput = true ∧ run0.awaitsInput = false := by decide
theorem witness_UnloadedSlotIsIllegal :
    Inv loaded ∧ loaded.runState = .running ∧ loaded.strict = false ∧ loaded.loadPtr ≤ loaded.pc ∧
    loaded.pc < loaded.params.programCapacity ∧ loaded.host = [] :=
  ⟨loaded_inv, by decide⟩
theorem witness_CanonicalBanksAreUnique :
    Memory.wf (0 : Int) 10 [(0, 5), (9, 6)] = true ∧
    Memory.wf (0 : Int) 10 (Memory.write 0 (Memory.write 0 [] 9 6) 0 5) = true := by decide
theorem witness_BootSequence :
    let prog : List InstrWord := [⟨5, 0⟩, ⟨7, 0⟩]
    run0.params.wellFormed = true ∧ prog ≠ [] ∧ prog.length ≤ run0.params.programCapacity ∧
    (∀ w ∈ prog, w.fits run0.params.width = true) ∧
    { run0 with host := bootActions prog }.host = bootActions prog ++ [] := by decide
theorem witness_InspectionPort :
    ((9 : BitVec 32).toNat < run0.params.dataCapacity ∧ Word.fits run0.params.width (run0.dmemAt 9) = true) ∧
    run0.params.dataCapacity ≤ (10 : BitVec 32).toNat ∧
    ((29 : BitVec 32).toNat < run0.params.programCapacity ∧ (run0.imemAt 29).fits run0.params.width = true) ∧
    run0.params.programCapacity ≤ (30 : BitVec 32).toNat ∧ 1 ≤ run0.params.width := by decide

end Sys2Proof.Tests
end

section
/-! The instruction format round trip, the excluded uses of the block, and the invariant every step keeps. -/

namespace Sys2Proof

/-! ### The instruction format round trip (R42, R45) -/

/-- The opcode map read forwards and backwards. -/
@[simp] theorem decode_encode (i : Instr) : decode (encode i) = .instr i := by cases i <;> rfl

theorem Instr.opcode_range (i : Instr) : 0 ≤ i.opcode ∧ i.opcode ≤ 10 := by cases i <;> simp [Instr.opcode]

/-- The smallest width the spec allows has half range 128 (R5). -/
theorem Word.half_ge {width : Nat} (h : 8 ≤ width) : 128 ≤ Word.half width :=
  Nat.pow_le_pow_right (n := 2) (i := 7) (by decide) (by omega)

/-- Every opcode of the map is a word at every width the spec allows. -/
theorem Instr.opcode_fits {width : Nat} (h : 8 ≤ width) (i : Instr) : Word.fits width i.opcode = true := by
  have := Word.half_ge h
  have := i.opcode_range
  exact Word.fits_iff.2 (by omega)

/-- A well-formed instruction's word is a word of the width in both fields. -/
theorem encode_fits {width : Nat} (h : 8 ≤ width) {i : Instr} (hi : i.wellFormed width = true) :
    (encode i).fits width = true :=
  InstrWord.fits_iff.2 ⟨i.opcode_fits h, hi⟩

/-- A pair of words survives its layout in `2W` bits. -/
theorem InstrWord.ofBits_toBits_of_fits {width : Nat} (h : 1 ≤ width) {w : InstrWord} (hw : w.fits width = true) :
    InstrWord.ofBits width (w.toBits width) = w := by
  obtain ⟨ho, ha⟩ := InstrWord.fits_iff.1 hw
  rw [InstrWord.ofBits_toBits, Word.wrap_of_fits h ho, Word.wrap_of_fits h ha]

/-- Settles O1: both fields of the instruction's word fit, so the bits give the word back, and the opcode map inverts. -/
theorem decodeOfEncode : Obligations.DecodeOfEncode := by
  intro width i hW hi
  rw [decodeBits, encodeBits, InstrWord.ofBits_toBits_of_fits (by omega) (encode_fits hW hi), decode_encode]

namespace Machine

/-! ### The excluded uses of the block (R5, R9, R101) -/

/-- The host's list once its first action is taken. -/
theorem State.takeAction_of_cons {s : State} {act : HostAction} {rest : List HostAction} (h : s.host = act :: rest) :
    s.takeAction = { s with host := rest } := by
  simp only [State.takeAction, h, List.tail_cons]

/-- With parameters in range a step is the host's next action, taken off its list. -/
theorem step_of_host_cons {s : State} {act : HostAction} {rest : List HostAction} (hp : s.params.wellFormed = true)
    (h : s.host = act :: rest) : step s = hostAction act { s with host := rest } := by
  rw [← State.takeAction_of_cons h]
  simp only [step, blockStep, hp, h, if_true]

/-- A change of the mode in mid-run. -/
theorem hostAction_setStrict_refused {s : State} {b : Bool} (hr : s.runState = .running) (hb : b ≠ s.strict) :
    hostAction (.setStrict b) s = .refused .strictChangedWhileRunning := by
  simp [hostAction, State.isRunning, hr, hb]

/-- The mode set outside a run, or to the level it has. -/
theorem hostAction_setStrict_taken {s : State} {b : Bool} (h : s.runState ≠ .running ∨ b = s.strict) :
    hostAction (.setStrict b) s = .next (s.setStrict b) := by
  rcases h with hr | rfl
  · simp [hostAction, State.isRunning, hr]
  · simp [hostAction]

/-- Settles O45: the host's action is the change of the mode, refused in mid-run and taken otherwise. -/
theorem strictModeChange : Obligations.StrictModeChange := by
  intro s b rest hp hh
  rw [step_of_host_cons hp hh]
  exact ⟨hostAction_setStrict_refused (s := { s with host := rest }),
    hostAction_setStrict_taken (s := { s with host := rest })⟩

/-- Settles O46: each of the five bounds excludes a well-formed configuration, so the step's guard fails. -/
theorem parametersOutOfRangeAreRefused : Obligations.ParametersOutOfRangeAreRefused := by
  intro s h
  have hp : ¬ s.params.wellFormed = true := by
    rw [Params.wellFormed_iff]
    unfold Word.maxSigned at h
    omega
  simp only [step, blockStep, if_neg hp]

end Machine

namespace Safety

open Machine

/-! ### The parameters (R5 to R7) -/

theorem params_of_effect {w : InstrWord} {s t : State} (h : Effect w s t) : t.params = s.params := by cases h <;> rfl

theorem params_of_moved {s t : State} (h : Moved s t) : t.params = s.params := by
  cases h with
  | executed _ _ _ he => exact params_of_effect he
  | _ => rfl

/-! ### Memories and counters in range -/

/-- A cycle that fetched a word leaves `PC` at most `M + 1`: it was below `M`, and no instruction adds more than 2 (R13). -/
theorem Bounded.of_effect {w : InstrWord} {s t : State} (hb : Bounded s) (hp : s.pc < s.params.programCapacity)
    (he : Effect w s t) : Bounded t := by
  have hnext : s.pc + 1 ≤ s.params.programCapacity + 1 := by omega
  cases he with
  | aborted => exact { hb with pc := hnext }
  | wroteAcc => exact { hb with pc := hnext }
  | stored ho h0 hN => exact { hb with pc := hnext, dmem := Memory.write_wf _ hb.dmem ((Int.toNat_lt h0).2 hN) }
  | emitted => exact { hb with pc := hnext }
  | halted => exact { hb with pc := hnext }
  | transferred target ht =>
    exact { hb with pc := show target ≤ s.params.programCapacity + 1 by omega }

/-- The slot the load port writes is the first unloaded one, so every slot written stays below `LOAD_PTR` (R18, R39). -/
theorem Bounded.of_load {s : State} (hb : Bounded s) (w : InstrWord) (hr : s.loadPtr < s.params.programCapacity) :
    Bounded ((s.setImem s.loadPtr w).setLoadPtr (s.loadPtr + 1)) :=
  { hb with
    imem := Memory.write_wf w hb.imem hr
    loadPtr := hr
    unloaded := by
      intro c hc
      rcases Memory.mem_write hc with rfl | hc
      · exact Nat.lt_succ_self _
      · exact Nat.lt_succ_of_lt (hb.unloaded c hc) }

theorem Bounded.of_moved {s t : State} (hb : Bounded s) (h : Moved s t) : Bounded t := by
  cases h with
  | loaded w _ _ hr => exact hb.of_load w hr
  | executed _ _ hp he => exact hb.of_effect hp he
  | _ => exact { hb with }

/-! ### Every register and memory word a word of its width -/

/-- What an instruction brings into a register is a word: the old Accumulator, a memory word, a narrowed result, an accepted
input, or a field of the fetched word. -/
theorem Sized.of_effect {w : InstrWord} {s t : State} (hz : Sized s) (hW : 1 ≤ s.params.width)
    (hw : w.fits s.params.width = true) (hp : s.pc < s.params.programCapacity) (he : Effect w s t) : Sized t := by
  cases he with
  | aborted => exact { hz with ir := hw, faultInstr := hw, faultPc := show s.pc ≤ s.params.programCapacity + 1 by omega }
  | wroteAcc v ins hv =>
    have hacc : Word.fits s.params.width v = true := by
      rcases hv with rfl | ⟨a, rfl⟩ | ⟨z, rfl⟩ | hv
      · exact hz.acc
      · exact State.dmemAt_fits hz.dmem a
      · exact Word.wrap_fits hW z
      · exact hv
    exact { hz with ir := hw, acc := hacc }
  | stored =>
    refine { hz with ir := hw, dmem := fun c hc => ?_ }
    rcases Memory.mem_write hc with rfl | hc
    · exact hz.acc
    · exact hz.dmem c hc
  | emitted => exact { hz with ir := hw }
  | halted => exact { hz with ir := hw, exitStatus := (InstrWord.fits_iff.1 hw).2 }
  | transferred => exact { hz with ir := hw }

theorem Sized.of_load {s : State} (hz : Sized s) {w : InstrWord} (hw : w.fits s.params.width = true) (p : Nat) :
    Sized ((s.setImem s.loadPtr w).setLoadPtr p) :=
  { hz with
    imem := by
      intro c hc
      rcases Memory.mem_write hc with rfl | hc
      · exact hw
      · exact hz.imem c hc }

theorem Sized.of_moved {s t : State} (hb : Bounded s) (hz : Sized s) (h : Moved s t) : Sized t := by
  cases h with
  | loaded w hw => exact hz.of_load hw _
  | malformed => exact { hz with faultPc := Nat.zero_le _ }
  | fetchFault => exact { hz with faultPc := hb.pc }
  | executed _ _ hp he =>
    have hW := (Params.wellFormed_iff.1 hb.params).1
    exact hz.of_effect (by omega) (State.imemAt_fits hz.imem s.pc) hp he
  | _ => exact { hz with }

/-! ### The result registers agree with `STATE` -/

/-- The fault record at its reset values (R20, R25). -/
structure ClearRecord (s : State) : Prop where
  kind : s.faultKind = .none
  pc : s.faultPc = 0
  instr : s.faultInstr = InstrWord.zero
  invalid : s.faultInstrValid = false

/-- Until the block is `Faulted` the record is clear. -/
theorem Recorded.clear {s : State} (hr : Recorded s) (hf : s.runState ≠ .faulted) : ClearRecord s := by
  have hv : s.faultInstrValid = false := Bool.eq_false_iff.2 fun hv => hf (hr.instrValid hv).1
  exact ⟨not_not.1 fun hk => hf (hr.fault.1 hk), hr.faultPc hf, (hr.instrInvalid hv).1, hv⟩

/-- What a block that has started and not faulted must meet: a clear record, exit status 0 until `Halted`, and a loaded program. -/
theorem Recorded.of_clear {t : State} (hc : ClearRecord t) (hi : t.runState ≠ .idle) (hf : t.runState ≠ .faulted)
    (hx : t.runState ≠ .halted → t.exitStatus = 0) (hl : t.loadPtr ≠ 0) : Recorded t where
  fault := ⟨fun h => absurd hc.kind h, fun h => absurd h hf⟩
  faultPc _ := hc.pc
  instrValid h := by simp [hc.invalid] at h
  instrInvalid _ := ⟨hc.instr, fun h => absurd h hf⟩
  fetchFault h := absurd h hf
  exitStatus := hx
  unstarted h := by simp [hi, hc.kind] at h
  loaded _ _ := hl

/-- The abort of the instruction fetched at `PC` names it, with `PC` one past it (R88). -/
theorem Recorded.of_abort {s : State} {kind : FaultKind} (w : InstrWord)
    (hk : kind = .illegalOpcode ∨ kind = .outOfBounds ∨ kind = .ioFailure) (hx : s.exitStatus = 0) (hl : s.loadPtr ≠ 0) :
    Recorded (s.abort kind w) := by
  have hnone : kind ≠ .none := by rintro rfl; simp at hk
  have hmal : kind ≠ .malformedProgram := by rintro rfl; simp at hk
  constructor <;> simp [hnone, hmal, hx, hl]

/-- A fetch fault names the `PC` outside Instruction Memory and no instruction (R56, R88). -/
theorem Recorded.of_fetchFault {s : State} (hc : ClearRecord s) (hp : s.params.programCapacity ≤ s.pc)
    (hx : s.exitStatus = 0) (hl : s.loadPtr ≠ 0) : Recorded (s.raise .outOfBounds .fetch) := by
  constructor <;> simp [hc.instr, hp, hx, hl]

/-- The start command with no program leaves an unstarted block, faulted at 0 (R82). -/
theorem Recorded.of_malformed {s : State} (hr : Recorded s) (hi : s.runState = .idle) :
    Recorded (s.raise .malformedProgram .start) := by
  have hc := hr.clear (by simp [hi])
  obtain ⟨hacc, hpc, hir, hdmem⟩ := hr.unstarted (.inl hi)
  have hx := hr.exitStatus (by simp [hi])
  constructor <;> simp [hc.instr, hacc, hpc, hir, hdmem, hx]

/-- A cycle that fetched a word aborts with its record, or leaves the record clear; only END writes the exit status. -/
theorem Recorded.of_effect {w : InstrWord} {s t : State} (hr : Recorded s) (hrun : s.runState = .running)
    (he : Effect w s t) : Recorded t := by
  have hc : ClearRecord s := hr.clear (by simp [hrun])
  have hx : s.exitStatus = 0 := hr.exitStatus (by simp [hrun])
  have hl : s.loadPtr ≠ 0 := hr.loaded (by simp [hrun]) (by simp [hc.kind])
  cases he with
  | aborted kind ins outs hk => exact .of_abort w hk hx hl
  | halted => exact .of_clear { hc with } (by simp) (by simp) (by simp) hl
  | _ => exact .of_clear { hc with } (by simp [hrun]) (by simp [hrun]) (fun _ => hx) hl

theorem Recorded.of_moved {s t : State} (hr : Recorded s) (h : Moved s t) : Recorded t := by
  cases h with
  | setStrict => exact { hr with }
  | loaded w hw hi => exact { hr with loaded := fun h => absurd hi h }
  | malformed hi => exact hr.of_malformed hi
  | started hi hl =>
    exact .of_clear { hr.clear (by simp [hi]) with } (by simp) (by simp) (fun _ => hr.exitStatus (by simp [hi])) hl
  | ignored => exact hr
  | stopped hrun =>
    have hc := hr.clear (by simp [hrun])
    exact .of_clear { hc with } (by simp) (by simp) (fun _ => hr.exitStatus (by simp [hrun]))
      (hr.loaded (by simp [hrun]) (by simp [hc.kind]))
  | fetchFault hrun hp =>
    have hc := hr.clear (by simp [hrun])
    exact .of_fetchFault hc hp (hr.exitStatus (by simp [hrun])) (hr.loaded (by simp [hrun]) (by simp [hc.kind]))
  | executed _ hrun _ he => exact hr.of_effect hrun he

/-! ### The invariant -/

/-- Reset puts any block whose parameters are in range into the invariant (R25, R97). -/
theorem Inv.resetCore {s : State} (hp : s.params.wellFormed = true) : Inv s.resetCore where
  bounded := by constructor <;> simp [hp, Memory.wf]
  sized := by constructor <;> simp [Word.fits_zero, InstrWord.zero_fits]
  recorded := by constructor <;> simp

/-- The invariant does not speak of the host's coming actions. -/
theorem Inv.takeAction {s : State} (h : Inv s) : Inv s.takeAction :=
  ⟨{ h.bounded with }, { h.sized with }, { h.recorded with }⟩

theorem Inv.of_moved {s t : State} (hi : Inv s) (h : Moved s t) : Inv t :=
  ⟨hi.bounded.of_moved h, hi.sized.of_moved hi.bounded h, hi.recorded.of_moved h⟩

/-- Settles O48: a step is a reset, which meets the invariant from anywhere, or one of the moves, each of which keeps its three parts. -/
theorem stepKeepsInv : Obligations.StepKeepsInv := by
  intro s t hi h
  obtain ⟨hp, ⟨-, rfl⟩ | ⟨-, hm⟩⟩ := step_cases h
  · exact ⟨Inv.resetCore hp, rfl⟩
  · exact ⟨hi.takeAction.of_moved hm, params_of_moved (s := s.takeAction) hm⟩

end Safety

end Sys2Proof
end

section
/-! What each instruction can do, by instruction; the frames that follow; and the rules of a step about single registers, both
memories, the fault record and the trace. -/

namespace Sys2Proof.Machine

/-! ### Equal memories are equal data (R16, R29) -/

/-- A canonical bank reads its reset content below its first entry. -/
theorem Memory.head_le_of_read_ne {α : Type} [DecidableEq α] {zero : α} {cap k : Nat} {c : Nat × α} {m : List (Nat × α)}
    (hw : Memory.wf zero cap (c :: m) = true) (hr : Memory.read zero (c :: m) k ≠ zero) : c.1 ≤ k := by
  obtain ⟨-, -, ho, -⟩ := Memory.wf_cons.1 hw
  by_contra hk
  refine hr (Memory.read_unlisted fun d hd => ?_)
  rcases List.mem_cons.1 hd with rfl | hd
  · omega
  · have := ho d hd
    omega

/-- The first entry of a bank is what its index reads. -/
theorem Memory.read_cons_same {α : Type} (zero : α) (c : Nat × α) (m : List (Nat × α)) :
    Memory.read zero (c :: m) c.1 = c.2 := if_pos rfl

theorem Memory.read_cons_other {α : Type} (zero : α) {c : Nat × α} (m : List (Nat × α)) {k : Nat} (h : c.1 ≠ k) :
    Memory.read zero (c :: m) k = Memory.read zero m k := if_neg h

/-- Two canonical banks that are not empty and read alike begin with the same entry. -/
theorem Memory.head_eq_of_read_eq {α : Type} [DecidableEq α] {zero : α} {cap : Nat} {c d : Nat × α} {m n : List (Nat × α)}
    (hm : Memory.wf zero cap (c :: m) = true) (hn : Memory.wf zero cap (d :: n) = true)
    (h : ∀ k, Memory.read zero (c :: m) k = Memory.read zero (d :: n) k) : c = d := by
  obtain ⟨-, hc, -, -⟩ := Memory.wf_cons.1 hm
  obtain ⟨-, hd, -, -⟩ := Memory.wf_cons.1 hn
  have hcd : c.1 = d.1 := by
    refine le_antisymm (Memory.head_le_of_read_ne hm ?_) (Memory.head_le_of_read_ne hn ?_)
    · rwa [h, Memory.read_cons_same]
    · rwa [← h, Memory.read_cons_same]
  refine Prod.ext hcd ?_
  calc c.2 = Memory.read zero (d :: n) c.1 := by rw [← h, Memory.read_cons_same]
    _ = d.2 := by rw [hcd, Memory.read_cons_same]

/-- A canonical bank's rest reads the reset content at the index of its first entry. -/
theorem Memory.read_rest_head {α : Type} [DecidableEq α] {zero : α} {cap : Nat} {c : Nat × α} {m : List (Nat × α)}
    (hw : Memory.wf zero cap (c :: m) = true) : Memory.read zero m c.1 = zero := by
  obtain ⟨-, -, ho, -⟩ := Memory.wf_cons.1 hw
  exact Memory.read_unlisted fun d hd => (ho d hd).ne'

/-- The canonical form of a bank is determined by what it reads. -/
theorem Memory.eq_of_read_eq {α : Type} [DecidableEq α] {zero : α} {cap : Nat} {m n : List (Nat × α)}
    (hm : Memory.wf zero cap m = true) (hn : Memory.wf zero cap n = true)
    (h : ∀ k, Memory.read zero m k = Memory.read zero n k) : m = n := by
  induction m generalizing n with
  | nil =>
    cases n with
    | nil => rfl
    | cons d n => exact absurd ((Memory.read_cons_same zero d n).symm.trans (h d.1).symm) (Memory.wf_cons.1 hn).2.1
  | cons c m ih =>
    cases n with
    | nil => exact absurd ((Memory.read_cons_same zero c m).symm.trans (h c.1)) (Memory.wf_cons.1 hm).2.1
    | cons d n =>
      obtain rfl := Memory.head_eq_of_read_eq hm hn h
      refine congrArg (c :: ·) (ih (Memory.wf_cons.1 hm).2.2.2 (Memory.wf_cons.1 hn).2.2.2 fun k => ?_)
      by_cases hk : c.1 = k
      · rw [← hk, Memory.read_rest_head hm, Memory.read_rest_head hn]
      · rw [← Memory.read_cons_other zero m hk, h, Memory.read_cons_other zero n hk]

/-- Settles O58: the canonical form of a bank is determined by what it reads, here with the reset content of Data Memory. -/
theorem canonicalBanksAreUnique : Obligations.CanonicalBanksAreUnique :=
  fun _ _ _ => Memory.eq_of_read_eq

/-! ### Stores to Data Memory (R30, R70) -/

@[simp] theorem State.dmemAt_setDmem_same (s : State) (a : Nat) (v : Int) : (s.setDmem a v).dmemAt a = v :=
  Memory.read_write_same 0 s.dmem a v

theorem State.dmemAt_setDmem_other (s : State) {a b : Nat} (v : Int) (h : b ≠ a) :
    (s.setDmem a v).dmemAt b = s.dmemAt b :=
  Memory.read_write_other 0 s.dmem v h

theorem execStore_inRange {s : State} {a : Int} (h0 : 0 ≤ a) (hN : a < s.params.dataCapacity) :
    execStore a s = .next ((s.advance (encode (.store a))).setDmem a.toNat s.acc) := by
  have hw := State.memWrite_inRange (s := s.advance (encode (.store a))) (v := s.acc) h0 hN
  simp only [execStore, hw]

theorem execStore_outOfRange {s : State} {a : Int} (h : a < 0 ∨ a ≥ s.params.dataCapacity) :
    execStore a s = .next (s.abort .outOfBounds (encode (.store a))) := by
  have hw := State.memWrite_outOfRange (s := s.advance (encode (.store a))) (v := s.acc) h
  simp only [execStore, hw]

/-! ### What each instruction can do -/

theorem OperandForm.dataAddress_invalid {p : Params} {a : Int} (h : a < 0 ∨ a ≥ p.dataCapacity) :
    OperandForm.dataAddress.valid p a = false := by
  rw [OperandForm.valid, Bool.and_eq_false_iff, decide_eq_false_iff_not, decide_eq_false_iff_not]
  omega

theorem State.targetInRange_eq_valid (s : State) (a : Int) :
    s.targetInRange a = OperandForm.instrAddress.valid s.params a := by
  rw [Bool.eq_iff_iff, State.targetInRange_iff, OperandForm.valid, Bool.and_eq_true, decide_eq_true_iff, decide_eq_true_iff]

/-- `Executed s i t`: the instruction `i`, run in `s`, can end in `t`. It sharpens `Effect` by naming, for each next state, the
instructions that answer it (R68 to R80). -/
inductive Executed (s : State) : Instr → State → Prop
  /-- An operand outside the range of its form (R44). -/
  | outOfBounds (i : Instr) (hi : (operandForm i).valid s.params i.operand = false) :
      Executed s i (s.abort .outOfBounds (encode i))
  /-- LOAD, ADD, SUB (R68, R69, R71). -/
  | read (i : Instr) (op : AluOp)
      (hi : i = .load i.operand ∧ op = .passMem ∨ i = .add i.operand ∧ op = .add ∨ i = .sub i.operand ∧ op = .sub)
      (h0 : 0 ≤ i.operand) (hN : i.operand < s.params.dataCapacity) :
      Executed s i ((s.advance (encode i)).setAcc
        (accumulatorAlu s.params.width op s.acc (s.dmemAt i.operand.toNat) 0))
  /-- STORE (R70). -/
  | stored (a : Int) (h0 : 0 ≤ a) (hN : a < s.params.dataCapacity) :
      Executed s (.store a) ((s.advance (encode (.store a))).setDmem a.toNat s.acc)
  /-- IN, a value supplied (R73). -/
  | received (a v : Int) (rest : List InAnswer) (hv : s.inAnswers = .value v :: rest)
      (hf : Word.fits s.params.width v = true) :
      Executed s (.inp a) (((s.setInAnswers rest).advance (encode (.inp a))).setAcc v)
  /-- IN, a failure (R73). -/
  | inFailed (a : Int) (rest : List InAnswer) (hv : s.inAnswers = .fail :: rest) :
      Executed s (.inp a) ((s.setInAnswers rest).abort .ioFailure (encode (.inp a)))
  /-- OUT, the value accepted (R74). -/
  | output (a : Int) (ho : s.nextOutAnswer = .accepted) :
      Executed s (.out a) ((s.dropOutAnswer.advance (encode (.out a))).emit (.output s.acc))
  /-- OUT, a failure (R74). -/
  | outFailed (a : Int) (ho : s.nextOutAnswer = .fail) :
      Executed s (.out a) (s.dropOutAnswer.abort .ioFailure (encode (.out a)))
  /-- END (R75). -/
  | halted (a : Int) : Executed s (.endRun a) ((s.advance (encode (.endRun a))).halt a)
  /-- JMP, the target in range (R76). -/
  | jumped (a : Int) (ha : s.targetInRange a = true) :
      Executed s (.jmp a) ((s.advance (encode (.jmp a))).setPc a.toNat)
  /-- SKIPZ (R77). -/
  | tested (a : Int) :
      Executed s (.skipz a) ((s.advance (encode (.skipz a))).setPc (if s.accZero then s.pc + 1 + 1 else s.pc + 1))
  /-- An illegal row of the opcode map in lenient mode (R78, R80). -/
  | reported (i : Instr) (hi : i = .na i.operand ∨ i = .reserved10 i.operand) (hs : s.strict = false) :
      Executed s i ((s.advance (encode i)).emit (.report s.pc i.opcode i.operand))
  /-- An illegal row of the opcode map in strict mode (R79, R80). -/
  | illegal (i : Instr) (hi : i = .na i.operand ∨ i = .reserved10 i.operand) (hs : s.strict = true) :
      Executed s i (s.abort .illegalOpcode (encode i))

theorem Executed.of_readInto {op : AluOp} {i : Instr} {s t : State} (hf : operandForm i = .dataAddress)
    (hi : i = .load i.operand ∧ op = .passMem ∨ i = .add i.operand ∧ op = .add ∨ i = .sub i.operand ∧ op = .sub)
    (h : readInto op (encode i) s = .next t) : Executed s i t := by
  rcases readInto_cases op (encode i) s with ⟨ho, hr⟩ | ⟨h0, hN, hr⟩ <;> rw [hr] at h <;> cases h
  · exact .outOfBounds i (hf ▸ OperandForm.dataAddress_invalid ho)
  · exact .read i op hi h0 hN

theorem Executed.of_execStore {a : Int} {s t : State} (h : execStore a s = .next t) : Executed s (.store a) t := by
  rcases s.memWrite_cases a s.acc with ⟨ho, -⟩ | ⟨h0, hN, -⟩
  · rw [execStore_outOfRange ho] at h
    cases h
    exact .outOfBounds _ (OperandForm.dataAddress_invalid ho)
  · rw [execStore_inRange h0 hN] at h
    cases h
    exact .stored a h0 hN

theorem Executed.of_execIn {a : Int} {s t : State} (h : execIn a s = .next t) : Executed s (.inp a) t := by
  unfold execIn at h
  rcases s.readInteger_cases with ⟨-, hr⟩ | ⟨rest, hv, hr⟩ | ⟨v, rest, hv, hf, hr⟩ | ⟨v, rest, -, -, hr⟩ <;>
    rw [hr] at h <;> cases h
  · exact .inFailed a rest hv
  · exact .received a v rest hv hf

theorem Executed.of_execOut {a : Int} {s t : State} (h : execOut a s = .next t) : Executed s (.out a) t := by
  unfold execOut at h
  cases ho : s.nextOutAnswer <;> rw [ho] at h <;> cases h
  · exact .output a ho
  · exact .outFailed a ho

theorem Executed.of_execJmp {a : Int} {s t : State} (h : execJmp a s = .next t) : Executed s (.jmp a) t := by
  unfold execJmp programCounterMux at h
  cases hr : s.targetInRange a <;> simp only [hr] at h <;> cases h
  · exact .outOfBounds _ (s.targetInRange_eq_valid a ▸ hr)
  · exact .jumped a hr

theorem Executed.of_illegalOpcode {i : Instr} {s t : State} (hi : i = .na i.operand ∨ i = .reserved10 i.operand)
    (h : illegalOpcode (encode i) s = .next t) : Executed s i t := by
  rcases illegalOpcode_cases (encode i) s with ⟨hs, hr⟩ | ⟨hs, hr⟩ <;> rw [hr] at h <;> cases h
  · exact .illegal i hi hs
  · exact .reported i hi hs

/-- Every next state of an instruction is one of the cases of `Executed`. -/
theorem Executed.of_exec {i : Instr} {s t : State} (h : exec i s = .next t) : Executed s i t := by
  cases i with
  | load a => exact Executed.of_readInto rfl (.inl ⟨rfl, rfl⟩) h
  | add a => exact Executed.of_readInto rfl (.inr (.inl ⟨rfl, rfl⟩)) h
  | store a => exact Executed.of_execStore h
  | sub a => exact Executed.of_readInto rfl (.inr (.inr ⟨rfl, rfl⟩)) h
  | inp a => exact Executed.of_execIn h
  | out a => exact Executed.of_execOut h
  | endRun a => cases h; exact .halted a
  | jmp a => exact Executed.of_execJmp h
  | skipz a => cases h; exact .tested a
  | na a => exact Executed.of_illegalOpcode (.inl rfl) h
  | reserved10 a => exact Executed.of_illegalOpcode (.inr rfl) h

/-! ### What an instruction leaves alone -/

/-- Settles O30: of the cases of an instruction only `stored` touches Data Memory, at the operand's word. -/
theorem onlyStoreWritesDataMemory : Obligations.OnlyStoreWritesDataMemory := by
  intro i s t h
  cases Executed.of_exec h with
  | stored a =>
    refine ⟨fun a' ha b hb => ?_, fun hi => absurd rfl (hi a)⟩
    cases ha
    exact State.dmemAt_setDmem_other _ _ hb
  | _ => exact ⟨fun _ _ _ _ => rfl, fun _ _ => rfl⟩

/-- Settles O31: only the cases `read` and `received` touch the Accumulator. -/
theorem onlyFourWriteTheAccumulator : Obligations.OnlyFourWriteTheAccumulator := by
  intro i s t h hi
  obtain ⟨hload, hadd, hsub, -⟩ := hi i.operand
  cases Executed.of_exec h with
  | read i op hr =>
    rcases hr with ⟨hr, -⟩ | ⟨hr, -⟩ | ⟨hr, -⟩
    · exact absurd hr hload
    · exact absurd hr hadd
    · exact absurd hr hsub
  | received a => exact absurd rfl (hi a).2.2.2
  | _ => rfl

/-- Settles O32: no case touches the host's side, and only those of IN and OUT take an answer off a channel. -/
theorem instructionsLeaveTheHostSideAlone : Obligations.InstructionsLeaveTheHostSideAlone := by
  intro i s t h
  cases Executed.of_exec h with
  | received a | inFailed a => exact ⟨rfl, rfl, rfl, rfl, rfl, fun hi => absurd rfl (hi a), fun _ => rfl⟩
  | output a | outFailed a => exact ⟨rfl, rfl, rfl, rfl, rfl, fun _ => rfl, fun ho => absurd rfl (ho a)⟩
  | _ => exact ⟨rfl, rfl, rfl, rfl, rfl, fun _ => rfl, fun _ => rfl⟩

/-- Settles O33: an abort is `Faulted`, END is `Halted` and writes the exit status, and every other case touches none of these
registers. -/
theorem resultRegistersFrame : Obligations.ResultRegistersFrame := by
  intro i s t h
  cases Executed.of_exec h with
  | outOfBounds | inFailed | outFailed | illegal =>
    exact ⟨fun _ => rfl, fun hf => absurd rfl hf, .inr (.inl rfl)⟩
  | halted a => exact ⟨fun hi => absurd rfl (hi a), fun _ => ⟨rfl, rfl, rfl, rfl⟩, .inr (.inr ⟨a, rfl, rfl⟩)⟩
  | _ => exact ⟨fun _ => rfl, fun _ => ⟨rfl, rfl, rfl, rfl⟩, .inl rfl⟩

/-! ### What a step that takes no reset leaves alone -/

theorem Moved.of_step {s t : State} (hh : s.host.head? ≠ some .reset) (h : step s = .next t) : Moved s.takeAction t := by
  obtain ⟨-, ⟨hr, -⟩ | ⟨-, hm⟩⟩ := step_cases h
  · exact absurd hr hh
  · exact hm

/-- No fetched word writes Instruction Memory or `LOAD_PTR` (R17, R18). -/
theorem Effect.program_eq {w : InstrWord} {s t : State} (h : Effect w s t) : t.imem = s.imem ∧ t.loadPtr = s.loadPtr := by
  cases h <;> exact ⟨rfl, rfl⟩

/-- Settles O50: of the moves only a load touches Instruction Memory or `LOAD_PTR`, and it needs `Idle`. -/
theorem instructionMemoryReadOnlyWhileRunning : Obligations.InstructionMemoryReadOnlyWhileRunning := by
  intro s t hrun hh h
  cases Moved.of_step hh h with
  | loaded w hw hi => exact absurd (hrun.symm.trans hi) (by decide)
  | executed t _ _ he => exact he.program_eq
  | _ => exact ⟨rfl, rfl⟩

/-- A fetched word that changes the word at `k` is a STORE to `k`, and leaves `ACC` there (R16, R70). -/
theorem Effect.store_of_dmemAt_ne {w : InstrWord} {s t : State} {k : Nat} (h : Effect w s t)
    (hk : t.dmemAt k ≠ s.dmemAt k) : t.ir = w ∧ w.opcode = 3 ∧ w.operand = k ∧ t.dmemAt k = s.acc := by
  cases h with
  | stored ho h0 hN =>
    have hw : k = w.operand.toNat := by
      by_contra hne
      exact hk (State.dmemAt_setDmem_other _ _ hne)
    subst hw
    exact ⟨rfl, ho, (Int.toNat_of_nonneg h0).symm, State.dmemAt_setDmem_same _ _ _⟩
  | _ => exact absurd rfl hk

/-- Settles O51: of the moves only a cycle that fetched a word touches Data Memory, and of those only a STORE's. -/
theorem dataMemoryWrittenOnlyByStore : Obligations.DataMemoryWrittenOnlyByStore := by
  intro s t k hh h hk
  cases Moved.of_step hh h with
  | executed t hr _ he =>
    obtain ⟨hir, hop, ha, hacc⟩ := he.store_of_dmemAt_ne hk
    exact ⟨hr, hir, hir ▸ hop, hir ▸ ha, hacc⟩
  | _ => exact absurd rfl hk

/-- The four registers of the fault record (R20) hold in `t` what they hold in `s`. -/
def SameRecord (s t : State) : Prop :=
  t.faultKind = s.faultKind ∧ t.faultPc = s.faultPc ∧ t.faultInstr = s.faultInstr ∧ t.faultInstrValid = s.faultInstrValid

theorem Effect.sameRecord_or_faulted {w : InstrWord} {s t : State} (h : Effect w s t) :
    SameRecord s t ∨ t.runState = .faulted := by
  cases h with
  | aborted => exact .inr rfl
  | _ => exact .inl ⟨rfl, rfl, rfl, rfl⟩

/-- The record is written by the start command in `Idle` and by a cycle, and then the run is over (R88, R90). -/
theorem Moved.sameRecord_or_faulted {s t : State} (h : Moved s t) :
    SameRecord s t ∨ s.runState.terminal = false ∧ t.runState = .faulted := by
  cases h with
  | malformed hi => exact .inr ⟨by rw [hi]; rfl, rfl⟩
  | fetchFault hr => exact .inr ⟨by rw [hr]; rfl, rfl⟩
  | executed t hr _ he => exact he.sameRecord_or_faulted.imp_right fun hf => ⟨by rw [hr]; rfl, hf⟩
  | _ => exact .inl ⟨rfl, rfl, rfl, rfl⟩

/-- Settles O52: a move that does not keep the record goes from a state that is not terminal to `Faulted`. -/
theorem faultRecordWrittenOnce : Obligations.FaultRecordWrittenOnce := by
  intro s t hh h hne
  rcases (Moved.of_step hh h).sameRecord_or_faulted with ⟨hk, hp, hi, hv⟩ | hf
  · rcases hne with hne | hne | hne | hne
    · exact absurd hk hne
    · exact absurd hp hne
    · exact absurd hi hne
    · exact absurd hv hne
  · exact hf

/-! ### The trace (R24, R67) -/

theorem Effect.trace_cases {w : InstrWord} {s t : State} (h : Effect w s t) :
    t.trace = s.trace ∨ ∃ e : Event, t.trace = s.trace ++ [e] := by
  cases h with
  | emitted e => exact .inr ⟨e, rfl⟩
  | _ => exact .inl rfl

/-- Settles O53: a reset and every move keep the trace, but for a fetched word that emits its one event. -/
theorem traceGrowsByAtMostOneEvent : Obligations.TraceGrowsByAtMostOneEvent := by
  intro s t h
  obtain ⟨-, ⟨-, rfl⟩ | ⟨-, hm⟩⟩ := step_cases h
  · exact .inl rfl
  · cases hm with
    | executed t _ _ he => exact he.trace_cases
    | _ => exact .inl rfl

/-- `s` with the events `es` emitted before its own. -/
def State.withEarlier (es : List Event) (s : State) : State := { s with trace := es ++ s.trace }

/-- The outcome with `g` applied to its next state. -/
def mapNext (g : State → State) : Host.Outcome State Fault Refusal → Host.Outcome State Fault Refusal
  | .next t => .next (g t)
  | .fault r => .fault r
  | .refused r => .refused r

/-- `f` does not read the trace: events emitted earlier stand before what it answers and change nothing else. -/
def TraceBlind (f : State → Host.Outcome State Fault Refusal) : Prop :=
  ∀ (es : List Event) (s : State), f (s.withEarlier es) = mapNext (State.withEarlier es) (f s)

theorem State.withEarlier_emit (es : List Event) (s : State) (e : Event) :
    (s.withEarlier es).emit e = (s.emit e).withEarlier es := by
  simp only [State.withEarlier, State.emit, List.append_assoc]

theorem traceBlind_readInto (op : AluOp) (w : InstrWord) : TraceBlind (readInto op w) := by
  intro es s
  have hr : (s.withEarlier es).memRead w.operand = s.memRead w.operand := rfl
  unfold readInto
  rw [hr]
  cases s.memRead w.operand <;> rfl

theorem traceBlind_illegalOpcode (w : InstrWord) : TraceBlind (illegalOpcode w) := by
  intro es s
  have hs : (s.withEarlier es).strict = s.strict := rfl
  unfold illegalOpcode
  rw [hs]
  cases s.strict
  · exact congrArg Host.Outcome.next ((s.advance w).withEarlier_emit es _)
  · rfl

theorem traceBlind_execStore (a : Int) : TraceBlind (execStore a) := by
  intro es s
  rcases s.memWrite_cases a s.acc with ⟨ho, -⟩ | ⟨h0, hN, -⟩
  · rw [execStore_outOfRange ho]
    exact execStore_outOfRange ho
  · rw [execStore_inRange h0 hN]
    exact execStore_inRange h0 hN

theorem traceBlind_execIn (a : Int) : TraceBlind (execIn a) := by
  intro es s
  have hr : (s.withEarlier es).readInteger = s.readInteger := rfl
  unfold execIn
  rw [hr]
  cases s.readInteger <;> rfl

theorem traceBlind_execOut (a : Int) : TraceBlind (execOut a) := by
  intro es s
  have ho : (s.withEarlier es).nextOutAnswer = s.nextOutAnswer := rfl
  unfold execOut
  rw [ho]
  cases s.nextOutAnswer
  · exact congrArg Host.Outcome.next (State.withEarlier_emit es (s.dropOutAnswer.advance _) _)
  · rfl

theorem traceBlind_execJmp (a : Int) : TraceBlind (execJmp a) := by
  intro es s
  have ht : (s.withEarlier es).targetInRange a = s.targetInRange a := rfl
  unfold execJmp programCounterMux
  rw [ht]
  cases s.targetInRange a <;> rfl

theorem traceBlind_exec (i : Instr) : TraceBlind (exec i) := by
  cases i with
  | load a => exact traceBlind_readInto _ _
  | add a => exact traceBlind_readInto _ _
  | store a => exact traceBlind_execStore a
  | sub a => exact traceBlind_readInto _ _
  | inp a => exact traceBlind_execIn a
  | out a => exact traceBlind_execOut a
  | endRun a => exact fun _ _ => rfl
  | jmp a => exact traceBlind_execJmp a
  | skipz a => exact fun _ _ => rfl
  | na a => exact traceBlind_illegalOpcode _
  | reserved10 a => exact traceBlind_illegalOpcode _

theorem traceBlind_dispatch (w : InstrWord) : TraceBlind (dispatch w) := by
  intro es s
  unfold dispatch
  cases decode w with
  | instr i => exact traceBlind_exec i es s
  | illegalOpcode u => exact traceBlind_illegalOpcode u es s

theorem traceBlind_engine (stop : Bool) : TraceBlind (engine stop) := by
  intro es s
  have hr : (s.withEarlier es).isRunning = s.isRunning := rfl
  have hf : (s.withEarlier es).iFetch (s.withEarlier es).pc = s.iFetch s.pc := rfl
  unfold engine cycle
  rw [hr, hf]
  cases s.isRunning with
  | false => rfl
  | true =>
    cases stop with
    | true => rfl
    | false =>
      cases s.iFetch s.pc with
      | none => rfl
      | some w => exact traceBlind_dispatch w es s

theorem State.withEarlier_loadPair (es : List Event) (s : State) (w : InstrWord) :
    (s.withEarlier es).loadPair w = (s.loadPair w).withEarlier es := by
  unfold State.loadPair
  rw [apply_ite (State.withEarlier es)]
  rfl

theorem State.withEarlier_start (es : List Event) (s : State) : (s.withEarlier es).start = s.start.withEarlier es := by
  unfold State.start
  rw [apply_ite (State.withEarlier es), apply_ite (State.withEarlier es)]
  rfl

theorem traceBlind_hostAction (act : HostAction) : TraceBlind (hostAction act) := by
  intro es s
  cases act with
  | reset => rfl
  | setStrict b =>
    simp only [hostAction]
    rw [apply_ite (mapNext (State.withEarlier es))]
    rfl
  | load op a =>
    have hp : (s.withEarlier es).params = s.params := rfl
    simp only [hostAction, hp]
    cases encodePair s.params.width (op, a) with
    | none => rfl
    | some w => exact congrArg Host.Outcome.next (s.withEarlier_loadPair es w)
  | start => exact congrArg Host.Outcome.next (s.withEarlier_start es)
  | cycle stop => exact traceBlind_engine stop es s

theorem traceBlind_step : TraceBlind step := by
  intro es s
  have hp : (s.withEarlier es).params = s.params := rfl
  have hh : (s.withEarlier es).host = s.host := rfl
  unfold step blockStep
  rw [hp, hh]
  cases s.params.wellFormed with
  | false => rfl
  | true =>
    cases s.host with
    | nil => exact traceBlind_engine false es s
    | cons act rest => exact traceBlind_hostAction act es s.takeAction

theorem mapNext_eq_next {g : State → State} {o : Host.Outcome State Fault Refusal} {t : State}
    (h : mapNext g o = .next t) : ∃ u, o = .next u ∧ g u = t := by
  cases o with
  | next u => exact ⟨u, rfl, Host.Outcome.next.inj h⟩
  | fault r => cases h
  | refused r => cases h

/-- A step that reads no trace does to the state with its trace taken away what it does to the state, so the events it emits are
the same under every trace. -/
theorem TraceBlind.appends {f : State → Host.Outcome State Fault Refusal} (hf : TraceBlind f) {s t : State}
    (h : f s = .next t) (tr : List Event) :
    ∃ es, t.trace = s.trace ++ es ∧ f { s with trace := tr } = .next { t with trace := tr ++ es } := by
  have hbare : ∀ l : List Event, ({ s with trace := [] } : State).withEarlier l = { s with trace := l } := fun l => by
    simp only [State.withEarlier, List.append_nil]
  have hmap : ∀ l : List Event, f { s with trace := l } = mapNext (State.withEarlier l) (f { s with trace := [] }) :=
    fun l => hbare l ▸ hf l _
  obtain ⟨u, hu, rfl⟩ := mapNext_eq_next ((hmap s.trace).symm.trans h)
  exact ⟨u.trace, rfl, by rw [hmap tr, hu]; rfl⟩

/-- Settles O55: no part of a step reads the trace. -/
theorem traceIsNotReadBack : Obligations.TraceIsNotReadBack :=
  fun _ _ tr h => traceBlind_step.appends h tr

/-! ### The fetch registers (R15) -/

/-- A cycle that fetches is the dispatch of the fetched word, once the host's action is taken off its list. -/
theorem step_of_fetches {s : State} {w : InstrWord} (h : Safety.Fetches s w) : step s = dispatch w s.takeAction := by
  have hcycle : engine false s.takeAction = dispatch w s.takeAction := by
    have hrun : s.takeAction.isRunning = true := by simp [State.isRunning, h.running]
    have hword : s.takeAction.iFetch s.takeAction.pc = some w := by
      rw [← h.word]
      exact State.iFetch_inRange (s := s.takeAction) h.inRange
    simp only [engine, cycle, hrun, hword, if_true, Bool.false_eq_true, if_false]
  rcases h.noStop with hq | ⟨rest, hc⟩
  · rw [← hcycle, State.takeAction_quiet hq]
    simp only [step, blockStep, h.params, hq, if_true]
  · rw [← hcycle, State.takeAction_of_cons hc]
    exact step_of_host_cons h.params hc

/-- A fetched word overwrites `IR` before anything reads it. -/
theorem dispatch_setIr (w x : InstrWord) (s : State) : dispatch w { s with ir := x } = dispatch w s := by
  unfold dispatch
  cases decode w with
  | illegalOpcode u => rfl
  | instr i => cases i <;> rfl

/-- Settles O54: both steps dispatch the fetched word, which overwrites `IR`. -/
theorem fetchRegistersCarryNothing : Obligations.FetchRegistersCarryNothing := by
  intro s w x h
  have hx : Safety.Fetches { s with ir := x } w := { h with }
  rw [step_of_fetches h, step_of_fetches hx]
  exact dispatch_setIr w x s.takeAction

/-! ### The reset state (R25) -/

/-- Settles O44: each field of the reset state is the value R25 gives, and an empty bank reads its reset content everywhere. -/
theorem resetState : Obligations.ResetState :=
  ⟨rfl, rfl, rfl, rfl, rfl, rfl, rfl, rfl, rfl, rfl, fun _ => rfl, fun _ => rfl⟩

/-- Settles O47: the reset state is what a reset makes of it, and its parameters are in range. -/
theorem invAtReset : Obligations.InvAtReset :=
  Safety.Inv.resetCore (s := State.reset) (by decide)

end Sys2Proof.Machine
end

section
/-! The two memories as an instruction, the fetch, the load port and the inspection port see them. -/

namespace Sys2Proof.Machine

/-! ### A LOAD after a STORE (R35) -/

theorem readInto_inRange {op : AluOp} {w : InstrWord} {s : State} (h0 : 0 ≤ w.operand)
    (hN : w.operand < s.params.dataCapacity) :
    readInto op w s =
      .next ((s.advance w).setAcc (accumulatorAlu s.params.width op s.acc (s.dmemAt w.operand.toNat) 0)) := by
  simp only [readInto, State.memRead_inRange h0 hN]

theorem execLoad_inRange {s : State} {a : Int} (h0 : 0 ≤ a) (hN : a < s.params.dataCapacity) :
    execLoad a s = .next ((s.advance (encode (.load a))).setAcc (s.dmemAt a.toNat)) :=
  readInto_inRange (op := .passMem) (w := encode (.load a)) h0 hN

/-- Settles O11: the LOAD's address is the STORE's, and reads the word written, or another, which the store leaves alone. -/
theorem loadReadsLatestStore : Obligations.LoadReadsLatestStore := by
  rintro s a b ⟨ha0, haN⟩ ⟨hb0, hbN⟩
  refine ⟨_, _, execStore_inRange ha0 haN, execLoad_inRange hb0 hbN, ?_⟩
  rw [State.setAcc_acc]
  split
  · next hab => rw [hab, State.dmemAt_setDmem_same]
  · next hab =>
    have hne : b.toNat ≠ a.toNat := by omega
    exact State.dmemAt_setDmem_other _ _ hne

/-! ### Writes to Instruction Memory (R29, R39) -/

@[simp] theorem State.imemAt_setImem_same (s : State) (a : Nat) (w : InstrWord) : (s.setImem a w).imemAt a = w :=
  Memory.read_write_same InstrWord.zero s.imem a w

theorem State.imemAt_setImem_other (s : State) {a b : Nat} (w : InstrWord) (h : b ≠ a) :
    (s.setImem a w).imemAt b = s.imemAt b :=
  Memory.read_write_other InstrWord.zero s.imem w h

/-! ### The fetched word (R31, R39) -/

theorem illegalOpcode_lenient {w : InstrWord} {s : State} (hs : s.strict = false) :
    illegalOpcode w s = .next ((s.advance w).emit (.report s.pc w.opcode w.operand)) := by
  simp [illegalOpcode, hs]

/-- Every slot from `LOAD_PTR` up reads the reset content (R17, R25). -/
theorem State.imemAt_unloaded {s : State} (hb : Safety.Bounded s) {k : Nat} (hk : s.loadPtr ≤ k) :
    s.imemAt k = InstrWord.zero :=
  Memory.read_unlisted fun c hc => (lt_of_lt_of_le (hb.unloaded c hc) hk).ne

/-- Settles O57: the cycle fetches the unloaded slot's (0, 0), which is an illegal word. -/
theorem unloadedSlotIsIllegal : Obligations.UnloadedSlotIsIllegal := by
  intro s hi hrun hs hl hM hq
  have hf : Safety.Fetches s InstrWord.zero :=
    ⟨hi.bounded.params, hrun, hM, State.imemAt_unloaded hi.bounded hl, hq⟩
  rw [step_of_fetches hf]
  exact illegalOpcode_lenient (w := InstrWord.zero) (s := s.takeAction) hs

/-- An instruction the host reads from the table's bits is what the decoder answers on the table's word. -/
theorem decode_tableWord {width nbits w : Nat} {i : Instr} (h : decodeTableWordAt width nbits w = some i) :
    decode (tableWord width nbits w) = .instr i := by
  unfold decodeTableWordAt at h
  split at h
  · split at h
    · next hd => rw [hd, Option.some.inj h]
    · cases h
  · cases h

theorem dispatch_of_decode {w : InstrWord} {i : Instr} (h : decode w = .instr i) (s : State) :
    dispatch w s = exec i s := by
  simp only [dispatch, h]

/-- A placed word is the one the next cycle fetches (assumption 7). -/
theorem fetches_placeWord {s : State} (w : InstrWord) (hp : s.params.wellFormed = true)
    (hM : s.pc < s.params.programCapacity) : Safety.Fetches (s.placeWord w) w where
  params := hp
  running := rfl
  inRange := hM
  word := s.imemAt_setImem_same s.pc w
  noStop := .inr ⟨s.host, rfl⟩

/-- Settles O36: the step fetches the placed word and dispatches it to the instruction it decodes to. -/
theorem placedWordRunsNext : Obligations.PlacedWordRunsNext := by
  intro s nbits w i hp hM hd
  refine ⟨(s.withFetchWord nbits w).takeAction, ?_, rfl, rfl, rfl, rfl⟩
  rw [State.withFetchWord, step_of_fetches (fetches_placeWord _ hp hM), dispatch_of_decode (decode_tableWord hd)]

/-! ### The load port (R39) -/

theorem State.loadPair_stored {s : State} (w : InstrWord) (hi : s.runState = .idle)
    (hr : s.loadPtr < s.params.programCapacity) :
    s.loadPair w = (s.setImem s.loadPtr w).setLoadPtr (s.loadPtr + 1) := if_pos ⟨hi, hr⟩

theorem State.loadPair_dropped {s : State} (w : InstrWord)
    (h : s.runState ≠ .idle ∨ s.params.programCapacity ≤ s.loadPtr) : s.loadPair w = s := by
  refine if_neg fun ⟨hi, hr⟩ => ?_
  rcases h with h | h
  · exact h hi
  · omega

theorem hostAction_load_offered {s : State} {op a : Int} (hW : 1 ≤ s.params.width)
    (hop : Word.fits s.params.width op = true) (ha : Word.fits s.params.width a = true) :
    hostAction (.load op a) s = .next (s.loadPair ⟨op, a⟩) := by
  have he : encodePair s.params.width (op, a) = some ⟨op, a⟩ := by
    simp [encodePair, pairWellFormed, hop, ha, Word.wrap_of_fits hW]
  simp only [hostAction, he]

theorem hostAction_load_refused {s : State} {op a : Int}
    (h : Word.fits s.params.width op = false ∨ Word.fits s.params.width a = false) :
    hostAction (.load op a) s = .refused .valueDoesNotFit := by
  have he : encodePair s.params.width (op, a) = none := by
    rcases h with h | h <;> simp [encodePair, pairWellFormed, h]
  simp only [hostAction, he]

/-- Settles O42: a pair of words is stored at `LOAD_PTR` or dropped, any other pair is refused. -/
theorem loadPort : Obligations.LoadPort := by
  intro s op a rest hp hh
  have hW : 1 ≤ s.params.width := le_trans (by decide) (Params.wellFormed_iff.1 hp).1
  rw [step_of_host_cons hp hh, ← State.takeAction_of_cons hh]
  refine ⟨fun hop ha => ?_, hostAction_load_refused (s := s.takeAction)⟩
  rw [hostAction_load_offered (s := s.takeAction) hW hop ha]
  refine ⟨fun hi hr => ?_, fun h => congrArg _ (State.loadPair_dropped (s := s.takeAction) _ h)⟩
  rw [State.loadPair_stored (s := s.takeAction) _ hi hr]
  exact ⟨_, rfl, State.imemAt_setImem_same _ _ _, fun k hk => State.imemAt_setImem_other _ _ hk, rfl, rfl⟩

/-! ### The inspection port (R40) -/

theorem State.inspectDmem_inside {s : State} {a : BitVec s.params.width} (h : a.toNat < s.params.dataCapacity) :
    s.inspectDmem a = BitVec.ofInt _ (s.dmemAt a.toNat) := if_pos h

theorem State.inspectDmem_outside {s : State} {a : BitVec s.params.width} (h : s.params.dataCapacity ≤ a.toNat) :
    s.inspectDmem a = 0 := if_neg (not_lt.2 h)

theorem State.inspectImem_inside {s : State} {a : BitVec s.params.width} (h : a.toNat < s.params.programCapacity) :
    s.inspectImem a = (s.imemAt a.toNat).toBits _ := if_pos h

theorem State.inspectImem_outside {s : State} {a : BitVec s.params.width} (h : s.params.programCapacity ≤ a.toNat) :
    s.inspectImem a = 0 := if_neg (not_lt.2 h)

/-- Settles O60: inside a memory the wires carry the word's bits, which read back as the word when it fits them. -/
theorem inspectionPort : Obligations.InspectionPort := by
  intro s a
  refine ⟨fun ha hf hW => ?_, State.inspectDmem_outside, fun ha hf hW => ?_, State.inspectImem_outside⟩
  · rw [State.inspectDmem_inside ha, Word.toInt_ofInt, Word.wrap_of_fits hW hf]
  · rw [State.inspectImem_inside ha, InstrWord.ofBits_toBits_of_fits hW hf]

end Sys2Proof.Machine
end

section
/-! The decoder read backwards: what a word that decodes to an instruction is, and which words are illegal. Then what the operand
is to an instruction: ignored by some, and outside the range of its form a fault. -/

namespace Sys2Proof

/-! ### The two fields of the instruction format (R42) -/

theorem InstrWord.ofBits_append {width : Nat} (opcode operand : BitVec width) :
    InstrWord.ofBits width (opcode ++ operand) = ⟨opcode.toInt, operand.toInt⟩ := by
  rw [InstrWord.ofBits, BitVec.extractLsb'_append_eq_left, BitVec.extractLsb'_append_eq_right]

/-- The layout drops no bit of a word. -/
@[simp] theorem InstrWord.toBits_ofBits {width : Nat} (b : BitVec (width + width)) :
    (InstrWord.ofBits width b).toBits width = b := by
  simp only [InstrWord.toBits, InstrWord.ofBits, BitVec.ofInt_toInt]
  exact BitVec.extractLsb'_append_extractLsb'

/-! ### The decoder read backwards (R43, R45, R46) -/

theorem decode_eq_instr_iff {w : InstrWord} {i : Instr} : decode w = .instr i ↔ w = encode i := by
  refine ⟨fun h => ?_, fun h => h ▸ decode_encode i⟩
  rcases Machine.decode_cases w with ⟨j, hj, hw⟩ | hr
  · obtain rfl : j = i := Decoded.instr.inj (hj.symm.trans h)
    exact hw.symm
  · exact absurd (hr.symm.trans h) nofun

theorem decodeBits_append_eq_instr_iff {width : Nat} (opcode operand : BitVec width) (i : Instr) :
    decodeBits width (opcode ++ operand) = .instr i ↔ opcode.toInt = i.opcode ∧ operand.toInt = i.operand := by
  rw [decodeBits, decode_eq_instr_iff, InstrWord.ofBits_append, encode, InstrWord.mk.injEq]

/-- A rejected opcode is none of the map's eleven. -/
theorem opcode_of_decode_illegalOpcode {w u : InstrWord} (h : decode w = .illegalOpcode u) : w.opcode < 0 ∨ w.opcode > 10 := by
  obtain ⟨o, a⟩ := w
  by_contra hr
  obtain ⟨lo, hi⟩ : 0 ≤ o ∧ o ≤ 10 := by simpa only [not_or, not_lt] using hr
  interval_cases o <;> cases h

/-- Of the opcode map's rows the sentinel and the reserved one are illegal, and no other (R46). -/
theorem Instr.opcode_illegal_iff (i : Instr) :
    (i.opcode < 1 ∨ i.opcode > 9) ↔ i = .na i.operand ∨ i = .reserved10 i.operand := by
  cases i <;> simp [Instr.opcode, Instr.operand]

/-- Settles O2: the word is the instruction's, and the bits lay out the word they are read as. -/
theorem encodeOfDecode : Obligations.EncodeOfDecode := by
  intro width b i hW h
  have hw : InstrWord.ofBits width b = encode i := decode_eq_instr_iff.1 h
  refine ⟨by rw [encodeBits, ← hw, InstrWord.toBits_ofBits], ?_⟩
  have ha : (InstrWord.ofBits width b).operand = i.operand := congrArg InstrWord.operand hw
  rw [Instr.wellFormed, ← ha]
  exact Word.toInt_fits hW _

/-- Settles O3: the fields of the word are the opcode and the operand of the instruction it decodes to, for each of the nine. -/
theorem opcodeValueSelectsOperation : Obligations.OpcodeValueSelectsOperation := by
  intro width opcode operand a
  have h := decodeBits_append_eq_instr_iff opcode operand
  exact ⟨h (.load a), h (.add a), h (.store a), h (.sub a), h (.inp a), h (.out a), h (.endRun a), h (.jmp a), h (.skipz a)⟩

/-- Settles O4: the word is an instruction's, illegal in the two rows the map lists as such, or it is rejected. -/
theorem illegalWordsExactly : Obligations.IllegalWordsExactly := by
  intro w
  rcases Machine.decode_cases w with ⟨i, hi, rfl⟩ | hr
  · rw [decode_encode]
    simpa [encode] using i.opcode_illegal_iff
  · have ho := opcode_of_decode_illegalOpcode hr
    exact ⟨fun _ => .inr (.inr hr), fun _ => by omega⟩

/-- Settles O5: the decoder evaluated on each word. -/
theorem sampleWordsDecode : Obligations.SampleWordsDecode := by
  unfold Obligations.SampleWordsDecode
  decide

namespace Machine

/-! ### The ignored operand (R44) -/

/-- `f`, an instruction's meaning by its operand, ignores it: with another operand it answers the same next state but for the
instruction word in `IR` and in the fault record, and it raises no OutOfBounds. -/
def OperandIgnored (f : Int → State → Host.Outcome State Fault Refusal) : Prop :=
  ∀ (s t : State) (a b : Int), f a s = .next t →
    ∃ u : State, f b s = .next u ∧ { u with ir := t.ir, faultInstr := t.faultInstr } = t ∧
      (t.faultKind = .outOfBounds → s.faultKind = .outOfBounds)

/-- IN goes by what the input channel answers (R73). -/
theorem operandIgnored_execIn : OperandIgnored execIn := by
  intro s t a b h
  unfold execIn at h ⊢
  rcases s.readInteger_cases with ⟨-, hr⟩ | ⟨rest, -, hr⟩ | ⟨v, rest, -, -, hr⟩ | ⟨v, rest, -, -, hr⟩ <;>
    rw [hr] at h ⊢ <;> cases h
  · exact ⟨_, rfl, rfl, nofun⟩
  · exact ⟨_, rfl, rfl, id⟩

/-- OUT goes by what the output channel answers (R74). -/
theorem operandIgnored_execOut : OperandIgnored execOut := by
  intro s t a b h
  unfold execOut at h ⊢
  cases ho : s.nextOutAnswer <;> rw [ho] at h <;> cases h
  · exact ⟨_, rfl, rfl, id⟩
  · exact ⟨_, rfl, rfl, nofun⟩

/-- SKIPZ goes by the zero test of the Accumulator (R77). -/
theorem operandIgnored_execSkipz : OperandIgnored execSkipz := by
  intro s t a b h
  cases h
  exact ⟨_, rfl, rfl, id⟩

/-- Settles O18: each of the three meanings ignores its operand. -/
theorem ignoredOperandHasNoEffect : Obligations.IgnoredOperandHasNoEffect := by
  rintro s t a b mk (rfl | rfl | rfl) h
  · exact operandIgnored_execIn s t a b h
  · exact operandIgnored_execOut s t a b h
  · exact operandIgnored_execSkipz s t a b h

/-! ### The operand outside the range of its form (R44, R84) -/

theorem OperandForm.outOfRange_of_invalid {p : Params} {a : Int} (h : OperandForm.dataAddress.valid p a = false) :
    a < 0 ∨ a ≥ p.dataCapacity := by
  rw [OperandForm.valid, Bool.and_eq_false_iff, decide_eq_false_iff_not, decide_eq_false_iff_not] at h
  omega

theorem readInto_outOfRange {op : AluOp} {w : InstrWord} {s : State}
    (h : w.operand < 0 ∨ w.operand ≥ s.params.dataCapacity) : readInto op w s = .next (s.abort .outOfBounds w) := by
  simp only [readInto, State.memRead_outOfRange h]

theorem execJmp_outOfRange {s : State} {a : Int} (h : s.targetInRange a = false) :
    execJmp a s = .next (s.abort .outOfBounds (encode (.jmp a))) := by
  simp [execJmp, programCounterMux, h]

/-- An operand outside the range of its form makes its instruction an OutOfBounds abort, whatever the instruction (R84, R88). -/
theorem exec_of_invalid_operand {i : Instr} {s : State} (h : (operandForm i).valid s.params i.operand = false) :
    exec i s = .next (s.abort .outOfBounds (encode i)) := by
  cases i with
  | load a | add a | sub a => exact readInto_outOfRange (OperandForm.outOfRange_of_invalid h)
  | store a => exact execStore_outOfRange (OperandForm.outOfRange_of_invalid h)
  | jmp a => exact execJmp_outOfRange ((s.targetInRange_eq_valid a).trans h)
  | inp | out | endRun | skipz | na | reserved10 => cases h

/-- Settles O28: of an instruction's cases only `outOfBounds` records that kind, and an invalid operand always leads to it. -/
theorem outOfBoundsExactlyForInvalidOperands : Obligations.OutOfBoundsExactlyForInvalidOperands := by
  intro i s hs
  refine ⟨fun ⟨t, h, hk⟩ => ?_, fun hi => ⟨_, exec_of_invalid_operand hi, rfl⟩⟩
  cases Executed.of_exec h with
  | outOfBounds _ hi => exact hi
  | inFailed | outFailed | illegal => cases hk
  | _ => exact absurd (hs.symm.trans hk) nofun

end Machine

end Sys2Proof
end

section
/-! The cycle of the engine, from the control word to the step: the datapath against the dispatch, the next `PC`, what a fault leaves
undone, the fetch phase, and which steps end a run, leave a terminal state or have no successor. -/

namespace Sys2Proof

/-! ### The words of the decoder's two answers (R42, R45, R46) -/

theorem eq_of_decode_illegalOpcode {w u : InstrWord} (h : decode w = .illegalOpcode u) : u = w := by
  rcases Machine.decode_cases w with ⟨i, hi, -⟩ | hw
  · cases hi.symm.trans h
  · cases hw.symm.trans h
    rfl

/-- The opcode and the operand are the whole of an instruction. -/
theorem Instr.eq_of_opcode_operand {i j : Instr} (ho : i.opcode = j.opcode) (ha : i.operand = j.operand) : i = j := by
  have hd : decode (encode i) = .instr j := decode_eq_instr_iff.2 (by rw [encode, encode, ho, ha])
  exact Decoded.instr.inj ((decode_encode i).symm.trans hd)

namespace Machine

/-! ### The datapath driven by the control word (R58) -/

/-- The three rows of R58 that read Data Memory into `ACC`. -/
theorem datapath_eq_readInto {op : AluOp} {w : InstrWord} (s : State)
    (hc : controlWord w.opcode = ⟨true, .read, op, true, .keep, .none, false⟩) : datapath w s = readInto op w s := by
  rcases s.memRead_cases w.operand with ⟨-, hr⟩ | ⟨-, -, hr⟩
  · simp [datapath, readInto, hc, memoryPhase, hr]
  · simp only [datapath, readInto, hc, memoryPhase, hr]
    rfl

theorem datapath_store (a : Int) (s : State) : datapath (encode (.store a)) s = execStore a s := by
  have hc : controlWord (encode (.store a)).opcode = ⟨true, .write, .hold, false, .keep, .none, false⟩ := rfl
  rcases s.memWrite_cases (encode (.store a)).operand s.acc with ⟨h, hw⟩ | ⟨h0, hN, hw⟩
  · rw [execStore_outOfRange (a := a) h]
    simp [datapath, hc, memoryPhase, hw]
  · rw [execStore_inRange (a := a) h0 hN]
    simp only [datapath, hc, memoryPhase, hw]
    rfl

theorem datapath_inp (a : Int) (s : State) : datapath (encode (.inp a)) s = execIn a s := by
  have hc : controlWord (encode (.inp a)).opcode = ⟨true, .none, .passIn, true, .keep, .read, false⟩ := rfl
  simp only [datapath, execIn, hc, memoryPhase, ioPhase]
  cases s.readInteger <;> rfl

theorem datapath_out (a : Int) (s : State) : datapath (encode (.out a)) s = execOut a s := by
  have hc : controlWord (encode (.out a)).opcode = ⟨true, .none, .hold, false, .keep, .write, false⟩ := rfl
  simp only [datapath, execOut, hc, memoryPhase, ioPhase]
  cases s.nextOutAnswer <;> rfl

theorem datapath_jmp (a : Int) (s : State) : datapath (encode (.jmp a)) s = execJmp a s := by
  have hc : controlWord (encode (.jmp a)).opcode = ⟨true, .none, .hold, false, .target, .none, false⟩ := rfl
  have ht : s.targetInRange (encode (.jmp a)).operand = s.targetInRange a := rfl
  simp only [datapath, execJmp, hc, ht, memoryPhase, ioPhase]
  cases s.targetInRange a <;> rfl

/-- The last row of R58: every opcode outside 1 to 9 is illegal and drives nothing. -/
theorem controlWord_illegal {o : Int} (h : o < 1 ∨ o > 9) : (controlWord o).legal = false := by
  have hne : ∀ k : Int, 1 ≤ k → k ≤ 9 → o ≠ k := by omega
  simp [controlWord, hne]

theorem datapath_illegal {w : InstrWord} (s : State) (h : w.opcode < 1 ∨ w.opcode > 9) :
    datapath w s = illegalOpcode w s := by
  simp [datapath, controlWord_illegal h]

/-- On an instruction's word the datapath is the instruction's own rule. -/
theorem datapath_encode (i : Instr) (s : State) : datapath (encode i) s = exec i s := by
  cases i with
  | load a | add a | sub a => exact datapath_eq_readInto s rfl
  | store a => exact datapath_store a s
  | inp a => exact datapath_inp a s
  | out a => exact datapath_out a s
  | endRun a => rfl
  | jmp a => exact datapath_jmp a s
  | skipz a => rfl
  | na a => exact datapath_illegal s ((Instr.opcode_illegal_iff (.na a)).2 (.inl rfl))
  | reserved10 a => exact datapath_illegal s ((Instr.opcode_illegal_iff (.reserved10 a)).2 (.inr rfl))

/-- Settles O25: a word is an instruction's, or rejected, and then its opcode lies outside 1 to 9. -/
theorem controlWordDrivesTheSameCycle : Obligations.ControlWordDrivesTheSameCycle := by
  intro w s
  rcases decode_cases w with ⟨i, hd, rfl⟩ | hd
  · rw [datapath_encode, dispatch_of_decode hd]
  · have ho := opcode_of_decode_illegalOpcode hd
    rw [datapath_illegal s (by omega), dispatch, hd]
    rfl

/-! ### The next Program Counter and the events of an instruction (R57, R60, R64) -/

/-- Settles O26: of an instruction's cases only `jumped` and `tested` set `PC` after the fetch advanced it. -/
theorem nextProgramCounterOfAnInstruction : Obligations.NextProgramCounterOfAnInstruction := by
  intro i s t h
  cases Executed.of_exec h with
  | jumped a ha =>
    exact ⟨rfl, fun _ hj _ => by cases hj; rfl, nofun, fun hj _ => absurd (State.targetInRange_iff.1 ha) (hj a rfl)⟩
  | tested a =>
    refine ⟨rfl, nofun, fun _ _ hz => ?_, fun _ hz => ?_⟩
    · simp [State.accZero, hz]
    · simp [State.accZero, hz a rfl]
  | outOfBounds i hi =>
    refine ⟨rfl, ?_, ?_, fun _ _ => rfl⟩
    · rintro a rfl ha
      have hv : s.targetInRange a = false := (s.targetInRange_eq_valid a).trans hi
      rw [State.targetInRange_iff.2 ha] at hv
      cases hv
    · rintro a rfl
      cases hi
  | read i _ hi | reported i hi | illegal i hi =>
    exact ⟨rfl, by rintro a rfl; simp at hi, by rintro a rfl; simp at hi, fun _ _ => rfl⟩
  | _ => exact ⟨rfl, nofun, nofun, fun _ _ => rfl⟩

/-- Settles O34: only the cases `output` and `reported` emit. -/
theorem eventsOfAnInstruction : Obligations.EventsOfAnInstruction := by
  intro i s t h
  cases Executed.of_exec h with
  | output a => exact .inr (.inl ⟨⟨a, rfl⟩, rfl⟩)
  | reported i hi hs => exact .inr (.inr ⟨hs, ⟨i.operand, hi⟩, rfl⟩)
  | _ => exact .inl rfl

/-! ### What a fetched word leaves in `IR`, and how it ends a run (R56, R63, R65) -/

/-- Settles O27: of a fetched word's effects only `aborted` goes to `Faulted`. -/
theorem faultingInstructionHasNoEffect : Obligations.FaultingInstructionHasNoEffect := by
  intro w s t hs h hf
  cases Effect.of_dispatch h with
  | aborted => rfl
  | halted => exact absurd hf nofun
  | _ => exact absurd hf hs

theorem Effect.ir_eq {w : InstrWord} {s t : State} (h : Effect w s t) : t.ir = w := by cases h <;> rfl

/-- A fetched word that halts the run is an END, and its operand the exit status (R75). -/
theorem Effect.end_of_halted {w : InstrWord} {s t : State} (h : Effect w s t) (hs : s.runState ≠ .halted)
    (ht : t.runState = .halted) : w.opcode = 7 ∧ t.exitStatus = w.operand := by
  cases h with
  | halted ho => exact ⟨ho, rfl⟩
  | aborted => exact absurd ht nofun
  | _ => exact absurd ht hs

/-- Settles O49: a reset and every move but a cycle that fetched a word end elsewhere than in `Halted`. -/
theorem haltedOnlyByEnd : Obligations.HaltedOnlyByEnd := by
  intro s t hs h ht
  obtain ⟨-, ⟨-, rfl⟩ | ⟨-, hm⟩⟩ := step_cases h
  · cases ht
  · cases hm with
    | executed t hr _ he =>
      obtain ⟨ho, hx⟩ := he.end_of_halted hs ht
      rw [he.ir_eq]
      exact ⟨hr, rfl, ho, hx⟩
    | setStrict | ignored => exact absurd ht hs
    | loaded w hw hi => cases hi.symm.trans ht
    | _ => cases ht

/-- In a terminal state the host's actions but reset have no effect on the block (R63, R90, R98). -/
theorem Moved.sameCore_of_terminal {s t : State} (h : Moved s t) (hs : s.runState.terminal = true) :
    Safety.SameCore s t ∧ t.trace = s.trace ∧ t.inAnswers = s.inAnswers ∧ t.outAnswers = s.outAnswers := by
  have hi : s.runState ≠ .idle := fun hi => by rw [hi] at hs; cases hs
  have hr : s.runState ≠ .running := fun hr => by rw [hr] at hs; cases hs
  cases h with
  | setStrict | ignored => exact ⟨rfl, rfl, rfl, rfl⟩
  | loaded _ _ h | malformed h | started h => exact absurd h hi
  | stopped h | fetchFault h | executed _ h => exact absurd h hr

/-- Settles O40: a step that takes no reset is a move, and taking the host's action off its list is no change of the block. -/
theorem terminalStateLeftOnlyByReset : Obligations.TerminalStateLeftOnlyByReset :=
  fun _ _ hs hh h => (Moved.of_step hh h).sameCore_of_terminal hs

/-! ### The phases of a cycle (R54 to R56) -/

theorem engine_running {stop : Bool} {s : State} (hr : s.runState = .running) : engine stop s = cycle stop s :=
  if_pos (decide_eq_true hr)

theorem engine_notRunning {stop : Bool} {s : State} (hr : s.runState ≠ .running) : engine stop s = .next s :=
  if_neg (by simpa [State.isRunning] using hr)

theorem cycle_fetchFault {s : State} (hM : s.params.programCapacity ≤ s.pc) :
    cycle false s = .next (s.raise .outOfBounds .fetch) := by
  simp [cycle, State.iFetch_outOfRange hM]

theorem cycle_fetched {s : State} (hM : s.pc < s.params.programCapacity) :
    cycle false s = dispatch (s.imemAt s.pc) s := by
  simp [cycle, State.iFetch_inRange hM]

theorem step_of_cycle {s : State} {stop : Bool} {rest : List HostAction} (hp : s.params.wellFormed = true)
    (hh : s.host = .cycle stop :: rest) : step s = engine stop s.takeAction := by
  rw [State.takeAction_of_cons hh]
  exact step_of_host_cons hp hh

/-- A block left to run with the stop request low, by a cycle action or by a quiet host, runs the engine. -/
theorem step_of_noStop {s : State} (hp : s.params.wellFormed = true)
    (hh : s.host = [] ∨ ∃ rest, s.host = .cycle false :: rest) : step s = engine false s.takeAction := by
  rcases hh with hq | ⟨rest, hc⟩
  · rw [State.takeAction_quiet hq]
    simp only [step, blockStep, hp, hq, if_true]
  · exact step_of_cycle hp hc

/-- Settles O35: a step that fetches is the dispatch of the word, by what the decoder answers. -/
theorem stepRunsTheDecodedInstruction : Obligations.StepRunsTheDecodedInstruction := by
  intro s w hf
  rw [step_of_fetches hf]
  refine ⟨fun i hd => dispatch_of_decode hd _, fun u hd => ?_⟩
  cases eq_of_decode_illegalOpcode hd
  simp only [dispatch, hd]

/-- Settles O37: the engine's cycle faults at a `PC` outside Instruction Memory, and dispatches the slot's word inside it. -/
theorem fetchPhase : Obligations.FetchPhase := by
  intro s hp hr hh
  refine ⟨fun hM => ?_, fun hM t h => ?_⟩
  · rw [step_of_noStop hp hh, engine_running (s := s.takeAction) hr, cycle_fetchFault (s := s.takeAction) hM]
    rfl
  · rw [step_of_fetches ⟨hp, hr, hM, rfl, hh⟩] at h
    exact (Effect.of_dispatch h).ir_eq

/-! ### The next Program Counter of a cycle (R13, R60) -/

theorem illegalOpcode_pc {w : InstrWord} {s t : State} (h : illegalOpcode w s = .next t) : t.pc = s.pc + 1 := by
  rcases illegalOpcode_cases w s with ⟨-, hr⟩ | ⟨-, hr⟩ <;> rw [hr] at h <;> cases h <;> rfl

/-- The next `PC` of a fetched word, by its opcode and operand. -/
theorem dispatch_pc {w : InstrWord} {s t : State} (h : dispatch w s = .next t) :
    (w.opcode = 8 → Safety.InstrIndex s w.operand → t.pc = w.operand.toNat) ∧
    (w.opcode = 9 → s.acc = 0 → t.pc = s.pc + 2) ∧
    (¬ (w.opcode = 8 ∧ Safety.InstrIndex s w.operand) → ¬ (w.opcode = 9 ∧ s.acc = 0) → t.pc = s.pc + 1) := by
  rcases decode_cases w with ⟨i, hd, rfl⟩ | hd
  · rw [dispatch_of_decode hd] at h
    obtain ⟨-, hjmp, hskipz, hnext⟩ := nextProgramCounterOfAnInstruction i s t h
    refine ⟨fun ho => hjmp _ (Instr.eq_of_opcode_operand ho rfl),
      fun ho => hskipz _ (Instr.eq_of_opcode_operand (j := .skipz i.operand) ho rfl), fun hj hz => hnext ?_ ?_⟩
    · rintro a rfl ha
      exact hj ⟨rfl, ha⟩
    · rintro a rfl ha
      exact hz ⟨rfl, ha⟩
  · have ho := opcode_of_decode_illegalOpcode hd
    rw [dispatch, hd] at h
    exact ⟨fun h8 => by omega, fun h9 => by omega, fun _ _ => illegalOpcode_pc h⟩

/-- Settles O38: the cycle stops, faults in its fetch, or dispatches the slot's word. -/
theorem nextProgramCounterOfACycle : Obligations.NextProgramCounterOfACycle := by
  intro s t stop rest hr hh h
  obtain ⟨hp, -⟩ := step_cases h
  rw [step_of_cycle hp hh, engine_running (s := s.takeAction) hr] at h
  cases stop with
  | true =>
    cases h
    exact ⟨fun _ => rfl, nofun⟩
  | false =>
    refine ⟨fun hM => ?_, fun _ hM => ?_⟩
    · rw [cycle_fetchFault (s := s.takeAction) (hM.resolve_left nofun)] at h
      cases h
      rfl
    · rw [cycle_fetched (s := s.takeAction) hM] at h
      exact dispatch_pc (s := s.takeAction) h

/-! ### The steps that have no successor (R64, R73) -/

/-- The next answer of the input channel, where there is one, can cross the boundary (R72). -/
def State.InputFits (s : State) : Prop := ∀ v : Int, s.inAnswers.head? = some (.value v) → Word.fits s.params.width v = true

theorem execIn_waiting {s : State} (a : Int) (h : s.inAnswers = []) : execIn a s = .fault .awaitingInput := by
  simp only [execIn, State.readInteger, h]

/-- IN answers a next state once the boundary has answered with what can cross it. -/
theorem execIn_next {s : State} (a : Int) (hv : s.InputFits) (h : s.inAnswers ≠ []) : ∃ t, execIn a s = .next t := by
  rcases s.readInteger_cases with ⟨hn, -⟩ | ⟨rest, -, hr⟩ | ⟨v, rest, -, -, hr⟩ | ⟨v, rest, hi, hf, -⟩
  · exact absurd hn h
  · exact ⟨_, by simp only [execIn, hr]; rfl⟩
  · exact ⟨_, by simp only [execIn, hr]; rfl⟩
  · cases hf.symm.trans (hv v (by rw [hi]; rfl))

theorem readInto_next (op : AluOp) (w : InstrWord) (s : State) : ∃ t, readInto op w s = .next t := by
  rcases readInto_cases op w s with ⟨-, hr⟩ | ⟨-, -, hr⟩ <;> exact ⟨_, hr⟩

theorem illegalOpcode_next (w : InstrWord) (s : State) : ∃ t, illegalOpcode w s = .next t := by
  rcases illegalOpcode_cases w s with ⟨-, hr⟩ | ⟨-, hr⟩ <;> exact ⟨_, hr⟩

theorem execStore_next (a : Int) (s : State) : ∃ t, execStore a s = .next t := by
  rcases s.memWrite_cases a s.acc with ⟨h, -⟩ | ⟨h0, hN, -⟩
  · exact ⟨_, execStore_outOfRange h⟩
  · exact ⟨_, execStore_inRange h0 hN⟩

theorem execOut_next (a : Int) (s : State) : ∃ t, execOut a s = .next t := by
  unfold execOut
  cases s.nextOutAnswer <;> exact ⟨_, rfl⟩

theorem execJmp_next (a : Int) (s : State) : ∃ t, execJmp a s = .next t := by
  unfold execJmp
  cases s.targetInRange a <;> exact ⟨_, rfl⟩

/-- Every instruction answers a next state, but for an IN whose boundary has not answered. -/
theorem exec_next_or_waits (i : Instr) {s : State} (hv : s.InputFits) :
    (∃ t, exec i s = .next t) ∨ i.opcode = 5 ∧ s.inAnswers = [] := by
  cases i with
  | load a | add a | sub a => exact .inl (readInto_next _ _ s)
  | store a => exact .inl (execStore_next a s)
  | inp a =>
    by_cases h : s.inAnswers = []
    · exact .inr ⟨rfl, h⟩
    · exact .inl (execIn_next a hv h)
  | out a => exact .inl (execOut_next a s)
  | endRun a => exact .inl ⟨_, rfl⟩
  | jmp a => exact .inl (execJmp_next a s)
  | skipz a => exact .inl ⟨_, rfl⟩
  | na a | reserved10 a => exact .inl (illegalOpcode_next _ s)

theorem dispatch_next_or_waits (w : InstrWord) {s : State} (hv : s.InputFits) :
    (∃ t, dispatch w s = .next t) ∨ w.opcode = 5 ∧ s.inAnswers = [] := by
  rcases decode_cases w with ⟨i, hd, rfl⟩ | hd
  · rw [dispatch_of_decode hd]
    exact exec_next_or_waits i hv
  · rw [dispatch, hd]
    exact .inl (illegalOpcode_next w s)

/-- `in_ready`: the core runs, the slot at `PC` holds an IN, and the channel has not answered (R52). -/
theorem State.awaitsInput_iff {s : State} : s.awaitsInput = true ↔
    s.runState = .running ∧ s.pc < s.params.programCapacity ∧ (s.imemAt s.pc).opcode = 5 ∧ s.inAnswers = [] := by
  by_cases hM : s.pc < s.params.programCapacity
  · simp [State.awaitsInput, State.isRunning, State.iFetch_inRange hM, isInWord, hM, and_assoc]
  · simp [State.awaitsInput, State.iFetch_outOfRange (not_lt.1 hM), hM]

/-- The engine answers a next state where the stop request is low, but for a state that awaits its input. -/
theorem engine_next_or_waits {s : State} (hv : s.InputFits) :
    (∃ t, engine false s = .next t) ∨ s.awaitsInput = true := by
  by_cases hr : s.runState = .running
  · rw [engine_running hr]
    by_cases hM : s.pc < s.params.programCapacity
    · rw [cycle_fetched hM]
      exact (dispatch_next_or_waits _ hv).imp_right fun ⟨ho, hi⟩ => State.awaitsInput_iff.2 ⟨hr, hM, ho, hi⟩
    · exact .inl ⟨_, cycle_fetchFault (not_lt.1 hM)⟩
  · exact .inl ⟨s, engine_notRunning hr⟩

/-- A stop request high at phase 0 never leaves the engine without a successor (R55). -/
theorem engine_stop_next (s : State) : ∃ t, engine true s = .next t := by
  by_cases hr : s.runState = .running
  · exact ⟨_, engine_running hr⟩
  · exact ⟨s, engine_notRunning hr⟩

/-- What the host does beside letting a cycle run with the stop request low has a next state, but for a change of the mode and a pair
that cannot be offered. -/
theorem hostAction_next {act : HostAction} {s : State} (hW : 1 ≤ s.params.width) (hset : ∀ b, act ≠ .setStrict b)
    (hload : ∀ op a, act = .load op a → pairWellFormed s.params.width (op, a) = true) (hcycle : act ≠ .cycle false) :
    ∃ t, hostAction act s = .next t := by
  cases act with
  | reset | start => exact ⟨_, rfl⟩
  | setStrict b => exact absurd rfl (hset b)
  | load op a =>
    obtain ⟨hop, ha⟩ : Word.fits s.params.width op = true ∧ Word.fits s.params.width a = true :=
      Bool.and_eq_true_iff.1 (hload op a rfl)
    exact ⟨_, hostAction_load_offered hW hop ha⟩
  | cycle stop =>
    cases stop with
    | true => exact engine_stop_next s
    | false => exact absurd rfl hcycle

theorem dispatch_waiting {w : InstrWord} {s : State} (ho : w.opcode = 5) (hi : s.inAnswers = []) :
    dispatch w s = .fault .awaitingInput := by
  have hd : decode w = .instr (.inp w.operand) := decode_eq_instr_iff.2 (by cases w; cases ho; rfl)
  rw [dispatch_of_decode hd]
  exact execIn_waiting _ hi

/-- A state that awaits its input has no successor while the stop request is low. -/
theorem step_waiting {s : State} (hp : s.params.wellFormed = true) (hs : s.awaitsInput = true)
    (hh : s.host = [] ∨ ∃ rest, s.host = .cycle false :: rest) : step s = .fault .awaitingInput := by
  obtain ⟨hr, hM, ho, hi⟩ := State.awaitsInput_iff.1 hs
  rw [step_of_fetches ⟨hp, hr, hM, rfl, hh⟩]
  exact dispatch_waiting (s := s.takeAction) ho hi

/-- Settles O56: with the stop request low the engine answers a next state or awaits its input, and every other action of the host
that is not excluded has a next state. -/
theorem onlyAWaitingInputHasNoSuccessor : Obligations.OnlyAWaitingInputHasNoSuccessor := by
  intro s hp hstrict hload hv
  refine ⟨?_, step_waiting hp⟩
  by_cases hq : s.host = [] ∨ ∃ rest, s.host = .cycle false :: rest
  · rcases engine_next_or_waits (s := s.takeAction) hv with ⟨t, ht⟩ | hs
    · exact .inl ⟨t, (step_of_noStop hp hq).trans ht⟩
    · exact .inr ⟨step_waiting hp hs hq, hs, hq⟩
  · obtain ⟨hnil, hcycle⟩ := not_or.1 hq
    obtain ⟨act, rest, hh⟩ := List.exists_cons_of_ne_nil hnil
    rw [hh] at hstrict hload
    have hW : 1 ≤ s.params.width := le_trans (by decide) (Params.wellFormed_iff.1 hp).1
    obtain ⟨t, ht⟩ := hostAction_next (s := { s with host := rest }) hW (fun b hb => hstrict b (congrArg some hb))
      (fun op a ha => hload op a (congrArg some ha)) (fun hc => hcycle ⟨rest, hc ▸ hh⟩)
    exact .inl ⟨t, (step_of_host_cons hp hh).trans ht⟩

end Machine

end Sys2Proof
end

section
/-! The data-memory instructions LOAD, ADD, STORE and SUB: the rule of each, and what two or three of them do in a row. -/

namespace Sys2Proof

/-! ### Narrowing a sum and a difference of two words (R10, R69, R71) -/

theorem Word.modulus_cast (width : Nat) : (Word.modulus width : Int) = 2 ^ width := by simp [Word.modulus]

/-- Narrowing a number from `-2^W` up to below `2^W`, as every sum or difference of two words is, takes off or adds one
`2^W` where the number is no word. -/
theorem Word.wrap_eq_ite {width : Nat} (h : 1 ≤ width) {z : Int} (lo : -(2 * Word.half width : Int) ≤ z)
    (hi : z < 2 * Word.half width) :
    Word.wrap width z =
      if z > Word.maxSigned width then z - 2 ^ width else if z < Word.minSigned width then z + 2 ^ width else z := by
  rw [← Word.modulus_cast]
  have hm := Word.modulus_eq h
  have hmax : Word.maxSigned width = Word.half width - 1 := rfl
  have hmin : Word.minSigned width = -Word.half width := rfl
  split_ifs with habove hbelow
  · rw [← Word.wrap_sub_modulus, Word.wrap_of_fits h (Word.fits_iff.2 (by omega))]
  · rw [← Word.wrap_add_modulus, Word.wrap_of_fits h (Word.fits_iff.2 (by omega))]
  · exact Word.wrap_of_fits h (Word.fits_iff.2 (by omega))

theorem Word.wrap_add_of_fits {width : Nat} (h : 1 ≤ width) {x y : Int} (hx : Word.fits width x = true)
    (hy : Word.fits width y = true) :
    Word.wrap width (x + y) =
      if x + y > Word.maxSigned width then x + y - 2 ^ width
      else if x + y < Word.minSigned width then x + y + 2 ^ width else x + y := by
  have hx := Word.fits_iff.1 hx
  have hy := Word.fits_iff.1 hy
  exact Word.wrap_eq_ite h (by omega) (by omega)

theorem Word.wrap_sub_of_fits {width : Nat} (h : 1 ≤ width) {x y : Int} (hx : Word.fits width x = true)
    (hy : Word.fits width y = true) :
    Word.wrap width (x - y) =
      if x - y > Word.maxSigned width then x - y - 2 ^ width
      else if x - y < Word.minSigned width then x - y + 2 ^ width else x - y := by
  have hx := Word.fits_iff.1 hx
  have hy := Word.fits_iff.1 hy
  exact Word.wrap_eq_ite h (by omega) (by omega)

/-- Narrowing changes a number by a multiple of `2^W`, written as a power. -/
theorem Word.two_pow_dvd_sub_wrap (width : Nat) (z : Int) : (2 ^ width : Int) ∣ z - Word.wrap width z :=
  Word.modulus_cast width ▸ Word.wrap_dvd width z

@[simp] theorem Word.wrap_zero (width : Nat) : Word.wrap width 0 = 0 := Int.zero_bmod

/-- Taking off again what was added restores a word, whether or not the sum was one. -/
theorem Word.wrap_wrap_add_sub {width : Nat} (h : 1 ≤ width) {x : Int} (hx : Word.fits width x = true) (y : Int) :
    Word.wrap width (Word.wrap width (x + y) - y) = x := by
  rw [Word.wrap_wrap_sub, add_sub_cancel_right, Word.wrap_of_fits h hx]

namespace Machine

open Sys2Proof.Safety

/-! ### The rule of each instruction (R68 to R71) -/

theorem execAdd_inRange {s : State} {a : Int} (h0 : 0 ≤ a) (hN : a < s.params.dataCapacity) :
    execAdd a s =
      .next ((s.advance (encode (.add a))).setAcc (Word.wrap s.params.width (s.acc + s.dmemAt a.toNat))) :=
  readInto_inRange (op := .add) (w := encode (.add a)) h0 hN

theorem execSub_inRange {s : State} {a : Int} (h0 : 0 ≤ a) (hN : a < s.params.dataCapacity) :
    execSub a s =
      .next ((s.advance (encode (.sub a))).setAcc (Word.wrap s.params.width (s.acc - s.dmemAt a.toNat))) :=
  readInto_inRange (op := .sub) (w := encode (.sub a)) h0 hN

/-- An instruction with a data address outside `0 .. N-1` is the OutOfBounds abort and nothing else (R30, R65, R88). -/
theorem exec_of_not_dataIndex (i : Instr) {s : State} (hf : operandForm i = .dataAddress) (h : ¬ DataIndex s i.operand) :
    exec i s = .next (aborted s .outOfBounds (encode i)) := by
  have hout : i.operand < 0 ∨ i.operand ≥ s.params.dataCapacity := by
    unfold DataIndex at h
    omega
  exact exec_of_invalid_operand (hf ▸ OperandForm.dataAddress_invalid hout)

/-- Settles O6: in range `readInto` passes the word read, and an address out of range is the shared abort. -/
theorem loadFollowsItsRule : Obligations.LoadFollowsItsRule := fun _ a =>
  ⟨rfl, fun ⟨h0, hN⟩ => execLoad_inRange h0 hN, exec_of_not_dataIndex (.load a) rfl⟩

/-- Settles O7: the value is the narrowed sum, which is a word, congruent to the sum, and one `2^W` away from it at most. -/
theorem addFollowsItsRule : Obligations.AddFollowsItsRule := by
  intro s a hW
  have h1 : 1 ≤ s.params.width := by omega
  refine ⟨rfl, fun ⟨h0, hN⟩ => ⟨_, execAdd_inRange h0 hN, ?_⟩, exec_of_not_dataIndex (.add a) rfl⟩
  exact ⟨Word.wrap_fits h1 _, Word.two_pow_dvd_sub_wrap _ _, Word.wrap_add_of_fits h1⟩

/-- Settles O8: the bank after the write reads ACC at `a` and the old words elsewhere; all else is the fetch's. -/
theorem storeFollowsItsRule : Obligations.StoreFollowsItsRule := by
  intro s a
  refine ⟨rfl, fun ⟨h0, hN⟩ => ⟨_, execStore_inRange h0 hN, ?_, ?_, rfl⟩, exec_of_not_dataIndex (.store a) rfl⟩
  · exact State.dmemAt_setDmem_same _ _ _
  · exact fun b hb => State.dmemAt_setDmem_other _ _ hb

/-- Settles O9: as O7, with the narrowed difference. -/
theorem subFollowsItsRule : Obligations.SubFollowsItsRule := by
  intro s a hW
  have h1 : 1 ≤ s.params.width := by omega
  refine ⟨rfl, fun ⟨h0, hN⟩ => ⟨_, execSub_inRange h0 hN, ?_⟩, exec_of_not_dataIndex (.sub a) rfl⟩
  exact ⟨Word.wrap_fits h1 _, Word.two_pow_dvd_sub_wrap _ _, Word.wrap_sub_of_fits h1⟩

/-! ### Instructions in a row (R68 to R71, R77) -/

/-- Writing back the word an index reads changes no word. -/
theorem State.dmemAt_setDmem_dmemAt (s : State) (a b : Nat) : (s.setDmem a (s.dmemAt a)).dmemAt b = s.dmemAt b := by
  by_cases hb : b = a
  · rw [hb, State.dmemAt_setDmem_same]
  · exact State.dmemAt_setDmem_other s _ hb

/-- Settles O10: the STORE writes back the word the LOAD read. -/
theorem loadThenStoreKeepsDataMemory : Obligations.LoadThenStoreKeepsDataMemory :=
  fun s a ⟨h0, hN⟩ => ⟨_, _, execLoad_inRange h0 hN, execStore_inRange h0 hN, rfl, s.dmemAt_setDmem_dmemAt a.toNat⟩

/-- Settles O12: the difference is narrowed from the exact one, in which the word at `a` cancels. -/
theorem addThenSubRestores : Obligations.AddThenSubRestores :=
  fun _ _ hW hacc ⟨h0, hN⟩ =>
    ⟨_, _, execAdd_inRange h0 hN, execSub_inRange h0 hN, Word.wrap_wrap_add_sub (by omega) hacc _, rfl⟩

theorem execSkipz_of_acc_zero {s : State} (a : Int) (h : s.acc = 0) :
    execSkipz a s = .next ((s.advance (encode (.skipz a))).setPc (s.pc + 1 + 1)) := by
  simp [execSkipz, programCounterMux, State.accZero, h]

/-- Settles O13: the word at `a` less itself narrows to 0, and on 0 the SKIPZ skips. -/
theorem loadSubSkips : Obligations.LoadSubSkips := by
  rintro s a b ⟨h0, hN⟩
  have hzero : Word.wrap s.params.width (s.dmemAt a.toNat - s.dmemAt a.toNat) = 0 := by rw [sub_self, Word.wrap_zero]
  exact ⟨_, _, _, execLoad_inRange h0 hN, execSub_inRange h0 hN, execSkipz_of_acc_zero b hzero, hzero, rfl⟩

/-- Settles O14: both orders narrow the same sum. -/
theorem loadAddCommutes : Obligations.LoadAddCommutes := by
  rintro s a b hW ⟨ha0, haN⟩ ⟨hb0, hbN⟩
  refine ⟨_, _, _, _, execLoad_inRange ha0 haN, execAdd_inRange hb0 hbN, execLoad_inRange hb0 hbN,
    execAdd_inRange ha0 haN, ?_, ?_, ?_⟩
  · exact congrArg (Word.wrap s.params.width) (add_comm (s.dmemAt b.toNat) (s.dmemAt a.toNat))
  · exact Word.two_pow_dvd_sub_wrap _ _
  · exact Word.wrap_of_fits (by omega)

end Machine

end Sys2Proof
end

section
/-! IN and OUT: the rule of each by the channel's answer, and two INs in a row. -/

namespace Sys2Proof.Machine

open Sys2Proof.Safety

/-! ### IN, by the head of the input channel (R72, R73); `execIn_waiting` is the empty channel -/

theorem execIn_value {s : State} {v : Int} {rest : List InAnswer} (a : Int) (h : s.inAnswers = .value v :: rest)
    (hv : Word.fits s.params.width v = true) :
    execIn a s = .next (((s.setInAnswers rest).advance (encode (.inp a))).setAcc v) := by
  have hr : s.readInteger = .value v rest := by simp only [State.readInteger, h, hv, if_true]
  simp only [execIn, hr, accumulatorAlu]

theorem execIn_misfit {s : State} {v : Int} {rest : List InAnswer} (a : Int) (h : s.inAnswers = .value v :: rest)
    (hv : Word.fits s.params.width v = false) : execIn a s = .refused .valueDoesNotFit := by
  have hr : s.readInteger = .misfit := by simp [State.readInteger, h, hv]
  simp only [execIn, hr]

theorem execIn_fail {s : State} {rest : List InAnswer} (a : Int) (h : s.inAnswers = .fail :: rest) :
    execIn a s = .next ((s.setInAnswers rest).abort .ioFailure (encode (.inp a))) := by
  have hr : s.readInteger = .fail rest := by simp only [State.readInteger, h]
  simp only [execIn, hr]

/-- Settles O15: one clause for each answer the head of the input channel can be, and one for none. -/
theorem inFollowsItsRule : Obligations.InFollowsItsRule := fun _ a =>
  ⟨rfl, fun _ _ h => ⟨execIn_value a h, execIn_misfit a h⟩, fun _ => execIn_fail a, execIn_waiting a⟩

/-! ### OUT, by the next answer of the output channel (R74) -/

theorem execOut_accepted {s : State} (a : Int) (h : s.nextOutAnswer = .accepted) :
    execOut a s = .next ((s.dropOutAnswer.advance (encode (.out a))).emit (.output s.acc)) := by
  simp only [execOut, h]

theorem execOut_fail {s : State} (a : Int) (h : s.nextOutAnswer = .fail) :
    execOut a s = .next (s.dropOutAnswer.abort .ioFailure (encode (.out a))) := by
  simp only [execOut, h]

/-- Settles O16: an accepted write emits `ACC` after the fetch, a failed one is the shared abort; either uses up the answer. -/
theorem outFollowsItsRule : Obligations.OutFollowsItsRule := fun _ a => ⟨rfl, execOut_accepted a, execOut_fail a⟩

/-! ### Two INs in a row (R72, R73) -/

/-- Settles O17: the first IN leaves the channel at the second value, which the second IN takes at the same width. -/
theorem inputsConsumedInOrder : Obligations.InputsConsumedInOrder :=
  fun _ a b _ _ _ h hv hx => ⟨_, _, execIn_value a h hv, execIn_value b rfl hx, rfl, rfl, rfl, rfl⟩

end Sys2Proof.Machine
end

section
/-! The control instructions END, JMP and SKIPZ: the rule of each. -/

namespace Sys2Proof.Machine

open Sys2Proof.Safety

/-! ### END (R75) -/

theorem execEnd_eq (a : Int) (s : State) : execEnd a s = .next ((fetched s (encode (.endRun a))).halt a) := rfl

theorem State.result_halt (s : State) (a : Int) : (s.halt a).result = some (.exitStatus a) := rfl

/-- A halted block is in a terminal state, so no cycle follows: only reset changes it again (R63, R90). -/
theorem State.sameCore_of_step_halt {s u : State} {a : Int} (hh : (s.halt a).host.head? ≠ some .reset)
    (h : step (s.halt a) = .next u) : SameCore (s.halt a) u :=
  (terminalStateLeftOnlyByReset _ _ rfl hh h).1

/-- Settles O19: END answers the halted state after its fetch, which is terminal. -/
theorem endFollowsItsRule : Obligations.EndFollowsItsRule := fun s a =>
  ⟨rfl, _, execEnd_eq a s, rfl, State.result_halt _ a, fun _ => State.sameCore_of_step_halt⟩

/-! ### JMP (R76) -/

theorem execJmp_inRange {s : State} {a : Int} (h : InstrIndex s a) :
    execJmp a s = .next ((s.advance (encode (.jmp a))).setPc a.toNat) := by
  simp [execJmp, programCounterMux, State.targetInRange_iff.2 h]

/-- Settles O20: `targetInRange` decides which way the multiplexer goes, the target or the shared abort. -/
theorem jmpFollowsItsRule : Obligations.JmpFollowsItsRule := by
  intro s a
  refine ⟨rfl, execJmp_inRange, fun hout => ?_⟩
  have hr : s.targetInRange a = false := Bool.eq_false_iff.2 fun hr => hout (State.targetInRange_iff.1 hr)
  exact execJmp_outOfRange hr

/-! ### SKIPZ (R77); `execSkipz_of_acc_zero` is the skip -/

theorem execSkipz_of_acc_ne_zero {s : State} (a : Int) (h : s.acc ≠ 0) :
    execSkipz a s = .next (s.advance (encode (.skipz a))) := by
  simp [execSkipz, programCounterMux, State.accZero, h, State.setPc, State.advance]

/-- Settles O21: the zero test of `ACC` selects `PC`, and the operand is not looked at. -/
theorem skipzFollowsItsRule : Obligations.SkipzFollowsItsRule := fun _ a =>
  ⟨rfl, execSkipz_of_acc_zero a, execSkipz_of_acc_ne_zero a⟩

end Sys2Proof.Machine
end

section
/-! Illegal opcodes: every illegal word is dispatched to the one shared operation, whose two modes are the rules. -/

namespace Sys2Proof.Machine

/-- The counterpart of `illegalOpcode_lenient` (R79). -/
theorem illegalOpcode_strict {w : InstrWord} {s : State} (hs : s.strict = true) :
    illegalOpcode w s = .next (s.abort .illegalOpcode w) := by
  simp [illegalOpcode, hs]

/-- The two illegal rows of the opcode map and the words the decoder rejects are handled alike (R46, R80). -/
theorem dispatch_of_illegal {w : InstrWord} (h : w.opcode < 1 ∨ w.opcode > 9) (s : State) :
    dispatch w s = illegalOpcode w s := by
  rcases decode_cases w with ⟨i, hd, rfl⟩ | hd
  · rw [dispatch_of_decode hd]
    rcases i.opcode_illegal_iff.1 h with hi | hi <;> rw [hi] <;> rfl
  · simp only [dispatch, hd, execUnlisted]

/-- Settles O22: the dispatch is the shared operation, which in lenient mode emits the report after the fetch. -/
theorem illegalWordSkippedWhenLenient : Obligations.IllegalWordSkippedWhenLenient := fun s _ h hs =>
  (dispatch_of_illegal h s).trans (illegalOpcode_lenient hs)

/-- Settles O23: the dispatch is the shared operation, which in strict mode is the shared abort. -/
theorem illegalWordFaultsWhenStrict : Obligations.IllegalWordFaultsWhenStrict := fun s _ h hs =>
  (dispatch_of_illegal h s).trans (illegalOpcode_strict hs)

/-- Settles O24: `execNa` and `execReserved10` are the shared operation on their own words, in either mode. -/
theorem sentinelAndReservedAreIllegal : Obligations.SentinelAndReservedAreIllegal := fun _ _ =>
  ⟨fun hs => ⟨illegalOpcode_lenient hs, illegalOpcode_lenient hs⟩,
    fun hs => ⟨illegalOpcode_strict hs, illegalOpcode_strict hs⟩⟩

end Sys2Proof.Machine
end

section
/-! Exceptions and the ways out of a run: the one fault condition of each instruction, the stop request and the start command. -/

namespace Sys2Proof.Machine

/-! ### The fault condition of each instruction (R81, R87) -/

/-- Settles O29: of an instruction's cases four end in `Faulted`, each with one kind and for its own instructions. -/
theorem oneFaultConditionEach : Obligations.OneFaultConditionEach := by
  intro i s t hr h hf
  cases Executed.of_exec h with
  | outOfBounds _ hi =>
    cases i with
    | load | add | store | sub | jmp => rfl
    | inp | out | endRun | skipz | na | reserved10 => cases hi
  | inFailed | outFailed => rfl
  | illegal _ hi hs => rcases hi with hi | hi <;> rw [hi] <;> exact ⟨rfl, hs⟩
  | halted => cases hf
  | _ => cases hr.symm.trans hf

/-! ### The stop request (R55, R86) -/

theorem cycle_stopRequested (s : State) : cycle true s = .next (s.setRunState .stopped) := rfl

/-- Settles O39: the engine runs the cycle that stops before its fetch while `Running`, and nothing in any other state. -/
theorem stopRequestEndsTheRun : Obligations.StopRequestEndsTheRun := by
  intro s rest hp hh
  rw [step_of_host_cons hp hh]
  exact ⟨fun hr => (engine_running (s := { s with host := rest }) hr).trans (cycle_stopRequested _),
    engine_notRunning (s := { s with host := rest })⟩

/-! ### The start command (R53, R82) -/

theorem State.start_loaded {s : State} (hi : s.runState = .idle) (hl : s.loadPtr ≠ 0) :
    s.start = s.setRunState .running := by
  simp [State.start, hi, hl]

theorem State.start_unloaded {s : State} (hi : s.runState = .idle) (hl : s.loadPtr = 0) :
    s.start = s.raise .malformedProgram .start := by
  simp [State.start, hi, hl]

theorem State.start_notIdle {s : State} (hi : s.runState ≠ .idle) : s.start = s := if_pos hi

/-- Settles O41: the host's action is the start command, one clause for each of its branches. -/
theorem startCommand : Obligations.StartCommand := by
  intro s rest hp hh
  rw [step_of_host_cons hp hh]
  exact ⟨fun hi hl => congrArg _ (State.start_loaded (s := { s with host := rest }) hi hl),
    fun hi hl => congrArg _ (State.start_unloaded (s := { s with host := rest }) hi hl),
    fun hi => congrArg _ (State.start_notIdle (s := { s with host := rest }) hi)⟩

end Sys2Proof.Machine
end

section
/-! Reset from any state, and the boot sequence that follows it. -/

namespace Sys2Proof.Machine

/-! ### Reset (R97) -/

theorem step_reset {s : State} {rest : List HostAction} (hp : s.params.wellFormed = true) (h : s.host = .reset :: rest) :
    step s = .next s.takeAction.resetCore := by
  rw [step_of_host_cons hp h, State.takeAction_of_cons h, hostAction]

/-- Settles O43: the step is a reset, which gives each register its R25 value, empties both memories and leaves the parameters. -/
theorem resetFromAnyState : Obligations.ResetFromAnyState := fun _ _ hp hh =>
  ⟨_, step_reset hp hh, rfl, rfl, rfl, rfl, rfl, rfl, rfl, rfl, rfl, rfl, fun _ => rfl, fun _ => rfl, rfl⟩

/-! ### The boot sequence (R39, R53, R99) -/

/-- What a reset and the loading of `prog` leave for its run to begin from, but for `STATE`: `prog` from slot 0, every other slot
(0, 0), and `PC`, `ACC` and Data Memory at their reset values. -/
structure ProgramLoaded (prog : List InstrWord) (s : State) : Prop where
  pc : s.pc = 0
  acc : s.acc = 0
  loadPtr : s.loadPtr = prog.length
  dmem : ∀ k : Nat, s.dmemAt k = 0
  imem : ∀ k : Nat, s.imemAt k = (prog[k]?).getD ⟨0, 0⟩

theorem ProgramLoaded.resetCore (s : State) : ProgramLoaded [] s.resetCore := ⟨rfl, rfl, rfl, fun _ => rfl, fun _ => rfl⟩

/-- A loaded program does not speak of the host's coming actions. -/
theorem ProgramLoaded.takeAction {prog : List InstrWord} {s : State} (h : ProgramLoaded prog s) :
    ProgramLoaded prog s.takeAction := { h with }

/-- A pair stored at `LOAD_PTR` extends the loaded program by one word, since `LOAD_PTR` is its length. -/
theorem ProgramLoaded.store {prog : List InstrWord} {s : State} (h : ProgramLoaded prog s) (w : InstrWord) :
    ProgramLoaded (prog ++ [w]) ((s.setImem s.loadPtr w).setLoadPtr (s.loadPtr + 1)) where
  pc := h.pc
  acc := h.acc
  loadPtr := by simp [h.loadPtr]
  dmem := h.dmem
  imem k := by
    change (s.setImem s.loadPtr w).imemAt k = _
    by_cases hk : k = s.loadPtr
    · rw [hk, State.imemAt_setImem_same, h.loadPtr, List.getElem?_concat_length, Option.getD_some]
    · have hlen : k ≠ prog.length := h.loadPtr ▸ hk
      have hsame : (prog ++ [w])[k]? = prog[k]? := by grind
      rw [State.imemAt_setImem_other s w hk, h.imem, hsame]

/-- In `Idle` with room a step that takes a load stores the pair. -/
theorem step_load {s : State} {w : InstrWord} {rest : List HostAction} (hp : s.params.wellFormed = true)
    (hi : s.runState = .idle) (hr : s.loadPtr < s.params.programCapacity) (hw : w.fits s.params.width = true)
    (hh : s.host = .load w.opcode w.operand :: rest) :
    step s = .next ((s.takeAction.setImem s.loadPtr w).setLoadPtr (s.loadPtr + 1)) := by
  have hW : 1 ≤ s.params.width := le_trans (by decide) (Params.wellFormed_iff.1 hp).1
  obtain ⟨hop, ha⟩ := InstrWord.fits_iff.1 hw
  rw [step_of_host_cons hp hh, ← State.takeAction_of_cons hh, hostAction_load_offered (s := s.takeAction) hW hop ha]
  exact congrArg _ (State.loadPair_stored (s := s.takeAction) w hi hr)

/-- In `Idle` with a program a step that takes the start command begins the run. -/
theorem step_start {s : State} {rest : List HostAction} (hp : s.params.wellFormed = true) (hi : s.runState = .idle)
    (hl : s.loadPtr ≠ 0) (hh : s.host = .start :: rest) : step s = .next (s.takeAction.setRunState .running) := by
  rw [(startCommand s rest hp hh).1 hi hl, State.takeAction_of_cons hh, State.setRunState]

/-- The loads and the start that remain once `done` is loaded, one step each. -/
theorem run_loads_start {prog done : List InstrWord} {s : State} {rest : List HostAction}
    (hp : s.params.wellFormed = true) (hi : s.runState = .idle) (hd : ProgramLoaded done s) (hne : done ++ prog ≠ [])
    (hM : (done ++ prog).length ≤ s.params.programCapacity) (hfit : ∀ w ∈ prog, w.fits s.params.width = true)
    (hh : s.host = (bootActions prog).tail ++ rest) :
    ∃ t : State, core.run (prog.length + 1) s = .next t ∧ t.runState = .running ∧ t.host = rest ∧
      ProgramLoaded (done ++ prog) t := by
  induction prog generalizing done s with
  | nil =>
    rw [List.append_nil] at hne ⊢
    have hl : s.loadPtr ≠ 0 := by simpa [hd.loadPtr] using hne
    exact ⟨_, core_run_next 0 (step_start hp hi hl hh), rfl, congrArg List.tail hh, { hd.takeAction with }⟩
  | cons w prog ih =>
    rw [List.append_cons] at hne hM ⊢
    obtain ⟨hw, hfit⟩ := List.forall_mem_cons.1 hfit
    have hr : s.loadPtr < s.params.programCapacity := by
      simp only [List.length_append, List.length_singleton] at hM
      have := hd.loadPtr
      omega
    obtain ⟨t, ht, hloaded⟩ := ih (s := (s.takeAction.setImem s.loadPtr w).setLoadPtr (s.loadPtr + 1))
      hp hi (hd.takeAction.store w) hne hM hfit (congrArg List.tail hh)
    exact ⟨t, (core_run_next _ (step_load hp hi hr hw hh)).trans ht, hloaded⟩

/-- Settles O59: the reset leaves the empty program loaded in `Idle`, from where the loads and the start go on. -/
theorem bootSequence : Obligations.BootSequence := by
  intro s prog rest hp hne hM hfit hh
  have hloads : s.takeAction.resetCore.host = (bootActions prog).tail ++ rest := congrArg List.tail hh
  obtain ⟨t, ht, hrun, hhost, hl⟩ :=
    run_loads_start (done := []) (s := s.takeAction.resetCore) hp rfl (.resetCore _) hne hM hfit hloads
  exact ⟨t, (core_run_next _ (step_reset hp hh)).trans ht, hrun, hl.pc, hl.acc, hl.loadPtr, hhost, hl.dmem, hl.imem⟩

end Sys2Proof.Machine
end
